-- ==== Sys2Proof/Word.lean ====
section
/-! DEFINITION. The word types of the block (`00_scope.md` R6, R10). The widths of its two buses, `RAW_W` and
`RES_W`, are fields of the configuration (R7): their words are held as the integers they carry (log entry 10). -/

namespace Sys2Proof

/-- One octet of a buffer window (`20_memory.md` R47). -/
abbrev Byte := BitVec 8

/-- Type SN ("WrappingSeqNum"): ten wires, an integer in [0, 1023] (`00_scope.md` R10, `40_seqnum.md` R89). -/
abbrev SN := BitVec 10

/-- Type RAW: the word on the `RAW_W` wires of the operand bus `opa`, as an unsigned integer below `2 ^ RAW_W`
(`00_scope.md` R10: no rule depends on reading it as signed or unsigned). -/
abbrev Raw := Nat

/-- Type RES: the integer that the signed (two's complement) result word of `RES_W` bits carries
(`00_scope.md` R10). -/
abbrev Res := Int

/-- A one-bit field: D/C, E1, E2 (`30_encoding.md` R64). -/
abbrev Flag := BitVec 1

end Sys2Proof
end

