-- ==== Sys2Proof/Config.lean ====
section
/-! DEFINITION. The configuration record of `00_scope.md` R7 and the constants the spec leaves OPEN. An OPEN
parameter is a constant with no body: nothing in Lean can evaluate it, so no proof can depend on its value. -/

namespace Sys2Proof

/-- What `SN.CMP` can answer (`40_seqnum.md` R94). -/
inductive Verdict where
  | eq
  | lt
  | gt
  | un
deriving DecidableEq, Repr, Inhabited

/-- A verdict on two different values: LT, GT or UN (`00_scope.md` R7, `SN_TIE`). -/
inductive Tie where
  | lt
  | gt
  | un
deriving DecidableEq, Repr, Inhabited

/-- The parameters a claim may quantify over (`00_scope.md` R7: "A model takes these as fields of one
configuration record"). It is no part of the state (`10_state.md` R30). -/
structure Config where
  /-- `RAW_W`: the width of the operand bus `opa`, at least 10. -/
  rawW : Nat
  /-- `RES_W`: the width of the signed result port `res`, at least 12. -/
  resW : Nat
  /-- `ACK_RESET`: the value of `ACK_SN` after reset and after `SR.CLEAR`. -/
  ackReset : SN
  /-- `POP_SENTINEL`: what `SR.POPNACK` returns on an empty list, negative. -/
  popSentinel : Res
  /-- `NACK_DEPTH`: the capacity of the NACK FIFO; `none` is `unbounded`. -/
  nackDepth : Option Nat
  /-- `SN_ORDER`: the verdict of `SN.CMP`. -/
  snOrder : SN → SN → Verdict
  /-- `SN_TIE`: the verdict of `SN_ORDER_DEFAULT` at circular distance exactly 512. -/
  snTie : Tie
  /-- `STRICT_DC`: whether `SR.DESERIALIZE` rejects D/C = 1. -/
  strictDc : Bool
  /-- `N_CTX`: the number of report contexts in one block. -/
  nCtx : Nat

/-- What the spec demands of every configuration: the least widths and `POP_SENTINEL < 0` (R7), the sentinel
representable in `RES_W` bits (`92_eei_decisions.md`, OPEN parameters), and `40_seqnum.md` R96: EQ exactly on equal
values, and LT not exactly when a < b as integers. (R96's first constraint, a function of the two values alone, is
the type of `snOrder`.) -/
def Config.Admissible (c : Config) : Prop :=
  10 ≤ c.rawW ∧ 12 ≤ c.resW ∧ c.popSentinel < 0 ∧ -2 ^ (c.resW - 1) ≤ c.popSentinel ∧
    (∀ a b, c.snOrder a b = .eq ↔ a = b) ∧ ¬ ∀ a b, c.snOrder a b = .lt ↔ a.toNat < b.toNat

/-- The value taken for `RAW_W` (R7, log entry 10). -/
def Config.rawWTaken : Nat := 32

/-- The value taken for `RES_W` (R7, log entry 10). -/
def Config.resWTaken : Nat := 32

/-- OPEN: `ACK_RESET`, one value per implementation (`10_state.md` R31, log entry 4). -/
opaque Config.ackResetOpen : SN

/-- OPEN: `SN_TIE` (`40_seqnum.md` R95, log entry 7). -/
opaque Config.snTieOpen : Tie

/-- OPEN: the 31 bits of `POP_SENTINEL` below its sign bit (`41_report_access.md` R114, log entry 5). -/
opaque Config.popSentinelLow : BitVec 31

/-- OPEN: `SN_ORDER` on two different values (`40_seqnum.md` R94, R96, log entry 7). -/
opaque Config.snOrderOpen : SN → SN → Tie

/-- OPEN: first value of the pair on which `SN_ORDER` differs from raw numeric order (R96, log entry 7). -/
opaque Config.snOrderPivot : SN

/-- OPEN: how far forward the second value of that pair lies, less one (R96, log entry 7). -/
opaque Config.snOrderPivotGap : Fin 1023

/-- OPEN: whether a pair in raw order is answered GT (else UN) at the pivot (R96, log entry 7). -/
opaque Config.snOrderPivotGt : Bool

/-- FREE VALUE: the `RES_W`-bit word on `res` for a natural result that does not fit it, by the width, the number of
the draw and the result (`93_implementation_defined.md` U16, log entry 11). -/
opaque Config.wideResult : (resW : Nat) → Nat → Nat → BitVec resW

/-- FREE VALUE: which offsets of OBUF an abandoned `SR.SERIALIZE` had already written, by the number of the draw
(`70_reset_and_hazards.md` R186: "any mixture of old and new bytes", log entry 14). -/
opaque Config.abandonedWrote : Nat → Nat → Bool

/-- FREE VALUE: how many items an abandoned `SR.PRINT` had already emitted at most, by the number of the draw
(R186 is silent on the sink, log entry 14). -/
opaque Config.abandonedItems : Nat → Nat

end Sys2Proof
end

