-- ==== Sys2Proof/Syntax.lean ====
section
/-! DEFINITION. The instructions: one constructor per row of `spec/opcode_table.json`, and the words that carry
them, in the two encodings of `30_encoding.md`: the command port (Part B) and the wire format (Part A). -/

namespace Sys2Proof

/-- The padding of a report: one bit after an even number of NACK entries, five after an odd number, and no
other width (`30_encoding.md` R63). -/
inductive PadBits where
  | one (p : BitVec 1)
  | five (p : BitVec 5)
deriving DecidableEq, Repr

/-- A word as it reaches the block, by format (`30_encoding.md` R60, R68): the three buses of the command port
driven together (formats N, A and AB), or one element of the wire format, its first stream bit the most
significant. -/
inductive PortWord where
  | command (op : BitVec 4) (opa : Raw) (opb : SN)
  | wire15 (w : BitVec 15)
  | wire12 (w : BitVec 12)
  | wirePad (p : PadBits)
deriving DecidableEq, Repr

/-- One constructor per row of the opcode table. An operation carries the buses its format uses, as sampled:
reading `opa[9:0]` from `opa` is the meaning's (`30_encoding.md` R71). A wire element carries its fields. -/
inductive Instr where
  | snConstruct (opa : Raw)
  | snValue (opa : Raw)
  | snEquals (opa : Raw) (opb : SN)
  | snInc (opa : Raw)
  | snCmp (opa : Raw) (opb : SN)
  | srClear
  | srSetack (opa : Raw)
  | srGetack
  | srPushnack (opa : Raw)
  | srPopnack
  | srGetsize
  | srSerialize (opa : Raw)
  | srDeserialize (opa : Raw)
  | srPrint
  | reservedE
  | reservedF
  | statusPrologue (dc : Flag) (cpt : BitVec 3) (ack : SN) (e1 : Flag)
  | statusNackEntry (sn : SN) (e1 : Flag) (e2 : Flag)
  | statusPadding (p : PadBits)
deriving DecidableEq, Repr

/-- The mnemonic of an instruction, as the opcode table and `30_encoding.md` R76 write it. -/
def Instr.mnemonic : Instr → String
  | .snConstruct _ => "SN.CONSTRUCT"
  | .snValue _ => "SN.VALUE"
  | .snEquals _ _ => "SN.EQUALS"
  | .snInc _ => "SN.INC"
  | .snCmp _ _ => "SN.CMP"
  | .srClear => "SR.CLEAR"
  | .srSetack _ => "SR.SETACK"
  | .srGetack => "SR.GETACK"
  | .srPushnack _ => "SR.PUSHNACK"
  | .srPopnack => "SR.POPNACK"
  | .srGetsize => "SR.GETSIZE"
  | .srSerialize _ => "SR.SERIALIZE"
  | .srDeserialize _ => "SR.DESERIALIZE"
  | .srPrint => "SR.PRINT"
  | .reservedE => "RESERVED_E"
  | .reservedF => "RESERVED_F"
  | .statusPrologue _ _ _ _ => "STATUS.PROLOGUE"
  | .statusNackEntry _ _ _ => "STATUS.NACK_ENTRY"
  | .statusPadding _ => "STATUS.PADDING"

end Sys2Proof
end

