-- ==== Sys2Proof/WellFormed.lean ====
section
/-! DEFINITION. Which instructions are well formed: those whose fixed bits stand as `spec/opcode_table.json`
fixes them and whose operand the `RAW_W` wires of `opa` carry. Every operand of an operation may have every value
its bus carries (`30_encoding.md` R71). -/

namespace Sys2Proof

/-- With `opa` of `rawW` wires: the operand is below `2 ^ rawW` (R71), and `STATUS.PROLOGUE` has CPT = 000 (match
0x0000, mask 0x3800); nothing else is constrained. -/
def Instr.wfIn (rawW : Nat) : Instr → Bool
  | .snConstruct opa | .snValue opa | .snEquals opa _ | .snInc opa | .snCmp opa _ => decide (opa < 2 ^ rawW)
  | .srSetack opa | .srPushnack opa | .srSerialize opa | .srDeserialize opa => decide (opa < 2 ^ rawW)
  | .srClear | .srGetack | .srPopnack | .srGetsize | .srPrint => true
  | .reservedE | .reservedF => true
  | .statusPrologue _ cpt _ _ => cpt == 0
  | .statusNackEntry _ _ _ | .statusPadding _ => true

/-- Well formed on the machine's bus. -/
def Instr.wf (i : Instr) : Bool := i.wfIn Config.rawWTaken

end Sys2Proof
end

