-- ==== Sys2Proof/Decode.lean ====
section
/-! DEFINITION. The decoder and the encoder, from the opcode table: the operation codes of `30_encoding.md` R70
(all four bits of `op` compared), the wire elements of R60, and the numbering of a table row's bits as one
number. The decoder is total: every value of `op` is an operation or a reserved row (R74); the one word it
rejects is a prologue whose CPT is not 000 (R66). -/

namespace Sys2Proof

/-- Why a word is no instruction. -/
inductive DecodeError where
  /-- A 15-bit prologue whose CPT field is not 000 (`30_encoding.md` R66), with its D/C bit. -/
  | cptNotStatus (dc : Flag) (cpt : BitVec 3)
deriving DecidableEq, Repr

/-- The operation the four bits of `op` select (`30_encoding.md` R70), bit 3 first as the table's "encoding"
column writes them, with the buses its format reads (R68); an unused bus is ignored entirely. -/
def decodeCommand (op : BitVec 4) (opa : Raw) (opb : SN) : Instr :=
  match op.getLsbD 3, op.getLsbD 2, op.getLsbD 1, op.getLsbD 0 with
  | false, false, false, false => .snConstruct opa
  | false, false, false, true => .snValue opa
  | false, false, true, false => .snEquals opa opb
  | false, false, true, true => .snInc opa
  | false, true, false, false => .snCmp opa opb
  | false, true, false, true => .srClear
  | false, true, true, false => .srSetack opa
  | false, true, true, true => .srGetack
  | true, false, false, false => .srPushnack opa
  | true, false, false, true => .srPopnack
  | true, false, true, false => .srGetsize
  | true, false, true, true => .srSerialize opa
  | true, true, false, false => .srDeserialize opa
  | true, true, false, true => .srPrint
  | true, true, true, false => .reservedE
  | true, true, true, true => .reservedF

/-- `STATUS.PROLOGUE`, `dcccaaaaaaaaaae` with stream bit 0 as bit 14: accepted exactly when CPT = 000. -/
def decodeWire15 (w : BitVec 15) : Except DecodeError Instr :=
  let dc := w.extractLsb' 14 1
  let cpt := w.extractLsb' 11 3
  if cpt = 0 then .ok (.statusPrologue dc cpt (w.extractLsb' 1 10) (w.extractLsb' 0 1))
  else .error (.cptNotStatus dc cpt)

/-- `STATUS.NACK_ENTRY`, `nnnnnnnnnnef` with the entry's first bit as bit 11: no bit is checked. -/
def decodeWire12 (w : BitVec 12) : Instr :=
  .statusNackEntry (w.extractLsb' 2 10) (w.extractLsb' 1 1) (w.extractLsb' 0 1)

/-- What the `rawW` wires of `opa` sample of a number driven on them; no more than they carry can be presented
(`92_eei_decisions.md` D4, log entry 10). -/
def sampleOpa (rawW : Nat) (opa : Raw) : Raw := opa % 2 ^ rawW

/-- The decoder of a block whose `opa` has `rawW` wires. -/
def decodeIn (rawW : Nat) : PortWord → Except DecodeError Instr
  | .command op opa opb => .ok (decodeCommand op (sampleOpa rawW opa) opb)
  | .wire15 w => decodeWire15 w
  | .wire12 w => .ok (decodeWire12 w)
  | .wirePad p => .ok (.statusPadding p)

/-- The machine's decoder. -/
def decode (w : PortWord) : Except DecodeError Instr := decodeIn Config.rawWTaken w

/-- The word of an instruction: the match value of its row with its operands in place, an unused bus at zero. -/
def encode : Instr → PortWord
  | .snConstruct opa => .command 0x0 opa 0
  | .snValue opa => .command 0x1 opa 0
  | .snEquals opa opb => .command 0x2 opa opb
  | .snInc opa => .command 0x3 opa 0
  | .snCmp opa opb => .command 0x4 opa opb
  | .srClear => .command 0x5 0 0
  | .srSetack opa => .command 0x6 opa 0
  | .srGetack => .command 0x7 0 0
  | .srPushnack opa => .command 0x8 opa 0
  | .srPopnack => .command 0x9 0 0
  | .srGetsize => .command 0xA 0 0
  | .srSerialize opa => .command 0xB opa 0
  | .srDeserialize opa => .command 0xC opa 0
  | .srPrint => .command 0xD 0 0
  | .reservedE => .command 0xE 0 0
  | .reservedF => .command 0xF 0 0
  | .statusPrologue dc cpt ack e1 => .wire15 (dc ++ cpt ++ ack ++ e1)
  | .statusNackEntry sn e1 e2 => .wire12 (sn ++ e1 ++ e2)
  | .statusPadding p => .wirePad p

/-- The word of a table row given as a number (log entry 2), by the width of the row: the padding row is 1 bit
wide, an operation row 4 (one whole byte: 8), the NACK entry row 12, the prologue row 15 (two whole bytes: 16).
The buses the table gives no bits are zero; bits a row does not have are dropped. -/
def tableWord (nbits w : Nat) : Option PortWord :=
  match nbits with
  | 1 => some (.wirePad (.one (BitVec.ofNat 1 w)))
  | 4 => some (.command (BitVec.ofNat 4 w) 0 0)
  | 8 => some (.command (BitVec.ofNat 4 w) 0 0)
  | 12 => some (.wire12 (BitVec.ofNat 12 w))
  | 15 => some (.wire15 (BitVec.ofNat 15 w))
  | 16 => some (.wire15 (BitVec.ofNat 15 w))
  | _ => none

/-- The instruction the decoder reads from a table row given as a number. -/
def decodeTableWord (nbits w : Nat) : Option Instr :=
  match tableWord nbits w with
  | none => none
  | some word =>
    match decode word with
    | .ok i => some i
    | .error _ => none

end Sys2Proof
end

