-- ==== Sys2Proof/Machine/State.lean ====
section
/-! DEFINITION. The state of the block and what stands beside it: the report context, the decoder's shadow, the
response, the debug sink, the caller's two windows and the inputs that wait at the pins. INVENTORY.md lists every
piece with its rule. -/

namespace Sys2Proof.Machine

/-- A byte window: (offset, byte) pairs, offsets strictly rising, none equal to `Memory.unlisted`
(`Memory.wf` of Ops.lean). -/
abbrev Memory := List Host.Cell

/-- `status` of a response (`30_encoding.md` R73). -/
inductive Status where
  | ok
  | malformed
  | capacity
  | illegalOp
  | full
deriving DecidableEq, Repr

/-- The sub-cause of `Malformed` (`60_exceptions.md` R166). -/
inductive Cause where
  | trunc
  | cpt
  | dc
deriving DecidableEq, Repr

/-- The failures an operation can raise (`60_exceptions.md` R166 to R169). -/
inductive Failure where
  | malformed (c : Cause)
  | capacity
  | illegalOp
  | full
deriving DecidableEq, Repr

/-- A response: the three fields of `30_encoding.md` R73. -/
structure Response where
  status : Status
  info : BitVec 2
  res : Res
deriving DecidableEq, Repr

/-- `dbg_kind` (`41_report_access.md` R116). -/
inductive SinkKind where
  | ack
  | nack
deriving DecidableEq, Repr

/-- One item presented on the debug sink (`41_report_access.md` R116). -/
structure SinkItem where
  kind : SinkKind
  data : SN
deriving DecidableEq, Repr

/-- What the decoder holds of a report it has read in part (`10_state.md` R28): the bit cursor `pos`, `ack'`, the
last E1 read, and `L'`. -/
structure Shadow where
  pos : Nat
  ack : SN
  e1 : Flag
  nack : List SN
deriving DecidableEq, Repr

/-- What the outside can do to the block: assert `rst` between two operations (`70_reset_and_hazards.md` R185) or
while the operation of a word is in progress (R186; log entry 14), lend a window with its contents from offset 0
(`20_memory.md` R42, R49; log entry 13), or present a word (`30_encoding.md` R68; log entries 1, 3). -/
inductive Input where
  | rst
  | rstDuring (w : PortWord)
  | lendIbuf (bytes : List Byte)
  | lendObuf (bytes : List Byte)
  | word (w : PortWord)
deriving DecidableEq, Repr

/-- What stops the machine. Both are raised by the bound check that `20_memory.md` R43 asks of a model ("an access
outside them is a defect of the model, not a behaviour of the block"); safe, and no step raises either. -/
inductive Fault where
  /-- `memRead` at an offset not below `avail`. Safe. -/
  | ibufOutOfWindow (offset : Nat)
  /-- `memWrite` at an offset not below `cap`. Safe. -/
  | obufOutOfWindow (offset : Nat)
deriving DecidableEq, Repr

/-- Why an instruction has no meaning. -/
inductive Refusal where
  /-- Raised by an arm of `exec` whose instruction has no meaning yet; no arm of this model. Safe. -/
  | notModelled (mnemonic : String)
deriving DecidableEq, Repr

/-- The machine. -/
structure State where
  /-- `ACK_SN` (`10_state.md` R20). -/
  ackSn : SN
  /-- `NACK`, head first (`10_state.md` R21). -/
  nack : List SN
  /-- The decoder's shadow; `none`: it does not exist (`10_state.md` R28, R31). -/
  shadow : Option Shadow
  /-- IBUF, the caller's input window (`20_memory.md` R41). -/
  ibuf : Memory
  /-- OBUF, the caller's output window (`20_memory.md` R40). -/
  obuf : Memory
  /-- The response the last step gave; `none`: the response outputs are not valid (`30_encoding.md` R73, R75). -/
  rsp : Option Response
  /-- What `SR.PRINT` has emitted, oldest first (`41_report_access.md` R116). -/
  sink : List SinkItem
  /-- Inputs not yet taken, next first. -/
  inputs : List Input
  /-- The model's own: free values drawn so far (log entries 11, 14). -/
  draws : Nat
deriving DecidableEq, Repr

/-- The machine after reset (`10_state.md` R31, `70_reset_and_hazards.md` R185): `NACK` empty, `ACK_SN` at
`ACK_RESET`, no shadow, no valid response; nothing emitted, nothing listed in the windows, no input waiting. -/
def State.reset : State where
  ackSn := Config.ackResetOpen
  nack := []
  shadow := none
  ibuf := []
  obuf := []
  rsp := none
  sink := []
  inputs := []
  draws := 0

end Sys2Proof.Machine
end

