-- ==== Sys2Proof/Machine/Flags.lean ====
section
/-! DEFINITION. The block has no condition codes (`10_state.md` R24). What it shows beside `res` stands here: the
derived outputs `COUNT` and `EMPTY`, and the numbers that `status`, `info`, the verdict of `SN.CMP` and `dbg_kind`
show on their wires. -/

namespace Sys2Proof.Machine

/-- `COUNT = len(NACK)` (`10_state.md` R24). -/
def State.count (s : State) : Nat := s.nack.length

/-- `EMPTY`, 1 exactly when `len(NACK) = 0` (`10_state.md` R24). -/
def State.empty (s : State) : Flag := if s.nack.length = 0 then 1 else 0

/-- `SR.HASMORE`, the pseudo-operation that issues no operation: 1 - `EMPTY` (`30_encoding.md` R77). -/
def State.hasMore (s : State) : Flag := 1 - s.empty

/-- The 3-bit `status` (`30_encoding.md` R73; 5 to 7 are never produced). -/
def Status.code : Status → BitVec 3
  | .ok => 0
  | .malformed => 1
  | .capacity => 2
  | .illegalOp => 3
  | .full => 4

/-- The 2-bit `info` of a `Malformed` (`30_encoding.md` R73). -/
def Cause.code : Cause → BitVec 2
  | .trunc => 0
  | .cpt => 1
  | .dc => 2

/-- `code` of `40_seqnum.md` R94. -/
def verdictCode : Verdict → Res
  | .eq => 0
  | .lt => 1
  | .gt => 2
  | .un => 3

/-- A tie's verdict as one of the four. -/
def tieVerdict : Tie → Verdict
  | .lt => .lt
  | .gt => .gt
  | .un => .un

/-- `dbg_kind` (`41_report_access.md` R116). -/
def SinkKind.code : SinkKind → Flag
  | .ack => 0
  | .nack => 1

/-- The status a failure reports (`60_exceptions.md` R166 to R169). -/
def Failure.status : Failure → Status
  | .malformed _ => .malformed
  | .capacity => .capacity
  | .illegalOp => .illegalOp
  | .full => .full

/-- The `info` a failure reports: the sub-cause of `Malformed`, 0 with every other status (R73). -/
def Failure.info : Failure → BitVec 2
  | .malformed c => c.code
  | .capacity => 0
  | .illegalOp => 0
  | .full => 0

end Sys2Proof.Machine
end

