-- ==== Sys2Proof/Machine/Params.lean ====
section
/-! DEFINITION. The comparator the spec describes and the configuration the machine runs with. The operations take
the configuration as an argument, so a claim can be stated for every one. -/

namespace Sys2Proof.Machine

/-- `SN_ORDER_DEFAULT` (`40_seqnum.md` R95), by the forward distances each way round; `tie` is `SN_TIE`. Its LT
and GT rows are unverified by the source: the machine does not run with it (log entry 7). A configuration takes it with
`c.snOrder = snOrderDefault c.snTie`. -/
def snOrderDefault (tie : Tie) (a b : SN) : Verdict :=
  let fwd := (b - a).toNat
  let bwd := (a - b).toNat
  if fwd = 0 then .eq
  else if fwd < bwd then .lt
  else if bwd < fwd then .gt
  else tieVerdict tie

/-- The second value of the pair on which `SN_ORDER` differs from raw numeric order; never the first one. -/
def snOrderPartner : SN :=
  Config.snOrderPivot + BitVec.ofNat 10 (Config.snOrderPivotGap.val + 1)

/-- The machine's `SN_ORDER`: any function that `40_seqnum.md` R96 admits and no other. EQ exactly on equal
values; on two different values an open verdict, except on one open pair, where the verdict is one that raw
numeric order would not give, so that LT is not "exactly when a < b" (log entry 7). -/
def snOrderOpen (a b : SN) : Verdict :=
  if a = b then .eq
  else if a = Config.snOrderPivot ∧ b = snOrderPartner then
    if a.toNat < b.toNat then (if Config.snOrderPivotGt then .gt else .un) else .lt
  else tieVerdict (Config.snOrderOpen a b)

/-- The configuration the machine runs with (`00_scope.md` R7, column "value taken"): `RAW_W` = `RES_W` = 32 (log
entry 10), the OPEN parameters open, `NACK_DEPTH` unbounded (log entry 6), `STRICT_DC` false (log entry 8), `N_CTX` 1
(log entry 9). -/
def cfg : Config where
  rawW := Config.rawWTaken
  resW := Config.resWTaken
  ackReset := Config.ackResetOpen
  popSentinel := (BitVec.cons true Config.popSentinelLow).toInt
  nackDepth := none
  snOrder := snOrderOpen
  snTie := Config.snTieOpen
  strictDc := false
  nCtx := 1

end Sys2Proof.Machine
end

