-- ==== Sys2Proof/Machine/Operands.lean ====
section
/-! DEFINITION. How an operation reads its buses (`30_encoding.md` R71: nothing is sign-extended, scaled or
shifted) and how a value of ten wires or of one bit is carried on `res` (`00_scope.md` R9, R10). -/

namespace Sys2Proof.Machine

/-- `trunc10(v)`, the slice `v[9:0]` (`00_scope.md` R9): how a raw integer and an SN-typed `opa` are read. -/
def trunc10 (opa : Raw) : SN := BitVec.ofNat 10 opa

/-- A byte count (`cap`, `avail`): the whole bus as an unsigned integer, never reduced (`30_encoding.md` R71). -/
def byteCount (opa : Raw) : Nat := opa

/-- `zext_RES_W(v)` of an SN (`00_scope.md` R9): the same number, at every `RES_W` of at least 12. -/
def zextRes (v : SN) : Res := v.toNat

/-- A boolean on `res`: one bit, 1 = true (`00_scope.md` R10). -/
def boolRes (b : Bool) : Res := if b then 1 else 0

/-- The two's complement word that carries a result on the `resW` wires of `res` (`00_scope.md` R10). -/
def resBits (resW : Nat) (v : Res) : BitVec resW := BitVec.ofInt resW v

end Sys2Proof.Machine
end

