-- ==== Sys2Proof/Machine/Ops.lean ====
section
/-! DEFINITION. The operations every meaning shares: the byte windows and their bound checks, ending an operation
with a result or with a failure, the report context, and the FIFO. -/

namespace Sys2Proof.Machine

/-! ## The byte windows -/

/-- What a byte the caller has not placed reads as (DESIGN CHOICE, log entry 12; the spec gives the windows'
contents to the caller, `20_memory.md` R42). -/
def Memory.unlisted : Byte := 0

/-- The canonical form of a window: offsets strictly rising, no entry equal to what an unlisted offset reads as. -/
abbrev Memory.wf (m : Memory) : Prop :=
  m.Pairwise (fun x y => x.1 < y.1) ∧ ∀ c ∈ m, c.2 ≠ Memory.unlisted

/-- The byte at an offset. -/
def Memory.read (m : Memory) (a : Nat) : Byte :=
  match m with
  | [] => Memory.unlisted
  | (b, v) :: rest => if b = a then v else Memory.read rest a

/-- An entry in front of a window, left out where an unlisted offset reads the same. -/
def Memory.put (a : Nat) (v : Byte) (m : Memory) : Memory :=
  if v = Memory.unlisted then m else (a, v) :: m

/-- Store one byte. -/
def Memory.write (m : Memory) (a : Nat) (v : Byte) : Memory :=
  match m with
  | [] => Memory.put a v []
  | (b, w) :: rest =>
    if a < b then Memory.put a v ((b, w) :: rest)
    else if a = b then Memory.put a v rest
    else (b, w) :: Memory.write rest a v

/-- Store bytes from an offset on. -/
def Memory.writeAll (m : Memory) (a : Nat) : List Byte → Memory
  | [] => m
  | v :: rest => Memory.writeAll (Memory.write m a v) (a + 1) rest

/-- A window lent with these contents from offset 0. -/
def Memory.ofBytes (bytes : List Byte) : Memory := Memory.writeAll [] 0 bytes

/-- `MemRead(addr, 1)` from an IBUF window of `avail` bytes (`20_memory.md` R41), bound checked (R43). -/
def memRead (ibuf : Memory) (avail addr : Nat) : Except Fault Byte :=
  if addr < avail then .ok (Memory.read ibuf addr) else .error (.ibufOutOfWindow addr)

/-- `MemWrite(addr, 1, v)` into an OBUF window of `cap` bytes (`20_memory.md` R40), bound checked (R43). -/
def memWrite (cap addr : Nat) (v : Byte) (obuf : Memory) : Except Fault Memory :=
  if addr < cap then .ok (Memory.write obuf addr v) else .error (.obufOutOfWindow addr)

/-- `MemWrite(i, 1, B[i])` for the bytes of `B` in increasing offset order, each once (`20_memory.md` R47). -/
def memWriteAll (cap addr : Nat) (bytes : List Byte) (obuf : Memory) : Except Fault Memory :=
  match bytes with
  | [] => .ok obuf
  | v :: rest =>
    match memWrite cap addr v obuf with
    | .error flt => .error flt
    | .ok obuf' => memWriteAll cap (addr + 1) rest obuf'

/-- The bytes of `B` at their offsets, where the earlier contents are kept at some: a run of writes of which
only those chosen have been made (`70_reset_and_hazards.md` R186). -/
def Memory.writeSome (chosen : Nat → Bool) (m : Memory) (a : Nat) : List Byte → Memory
  | [] => m
  | v :: rest => Memory.writeSome chosen (if chosen a then Memory.write m a v else m) (a + 1) rest

/-! ## Ending an operation -/

/-- `respond(res)`: status OK, `info` 0 (`00_scope.md` R9, `30_encoding.md` R73). -/
def respond (v : Res) (s : State) : State := { s with rsp := some ⟨.ok, 0, v⟩ }

/-- `respond` of a natural number: exact where it fits the signed `RES_W` bits. The spec states no `res` for one
that does not (`41_report_access.md` R115, `93_implementation_defined.md` U16): there `res` is a free value, and
everything else the operation does happens all the same (log entry 11). -/
def respondNat (c : Config) (n : Nat) (s : State) : State :=
  if n < 2 ^ (c.resW - 1) then respond n s
  else respond (Config.wideResult c.resW s.draws n).toInt { s with draws := s.draws + 1 }

/-- `raise <Failure>(info)`, the block's one way of taking an exception (`60_exceptions.md` R165): the response
carries the status and the sub-cause, `res` is 0 (`30_encoding.md` R73), nothing is saved and nothing else changes.
There is no handler and no return (R173). -/
def raise (f : Failure) (s : State) : State := { s with rsp := some ⟨f.status, f.info, 0⟩ }

/-- A step that gives no response: the response outputs are not valid (`30_encoding.md` R75, `rsp_valid`). -/
def noResponse (s : State) : State := { s with rsp := none }

/-! ## The context and the FIFO -/

/-- `NACK <- []; ACK_SN <- ACK_RESET`: the context as reset leaves it (`10_state.md` R31). -/
def clearContext (c : Config) (s : State) : State := { s with ackSn := c.ackReset, nack := [] }

/-- `ACK_SN <- ack'; NACK <- L'`: the context replaced as a whole (`43_deserialize.md` R153). -/
def setContext (ack : SN) (nack : List SN) (s : State) : State := { s with ackSn := ack, nack := nack }

/-- `rst`: the context goes to the reset state, an operation in progress is abandoned and no response is given
(`70_reset_and_hazards.md` R185, R186). The windows are the caller's and what the sink took is gone from the
block: neither is touched (log entry 14). -/
def resetBlock (c : Config) (s : State) : State :=
  noResponse (clearContext c { s with shadow := none })

/-- Whether a list of this length fills the FIFO (`10_state.md` R23). -/
def fifoFull (c : Config) (n : Nat) : Bool :=
  match c.nackDepth with
  | none => false
  | some depth => n == depth

end Sys2Proof.Machine
end

