-- ==== Sys2Proof/Machine/Wire.lean ====
section
/-! DEFINITION. The wire format of `30_encoding.md` Part A: the stream of bits, the encoder's bit string and bytes
(`42_serialize.md` R130, R131), its bit writer (R132, R133) and byte-level view (R137), and the decoder's bit
reader (`43_deserialize.md` R145). -/

namespace Sys2Proof.Machine

/-! ## The stream of bits -/

/-- The bits of a field in stream order, most significant first (`00_scope.md` R8, `30_encoding.md` R64). -/
def fieldBits {n : Nat} (v : BitVec n) : List Bool := (List.range n).map v.getMsbD

/-- The field of width `n` at stream position `p`: the first bit is the most significant (`30_encoding.md` R64). -/
def streamField (stream : Nat → Bool) (p : Nat) : (n : Nat) → BitVec n
  | 0 => 0#0
  | n + 1 => BitVec.cons (stream p) (streamField stream (p + 1) n)

/-- Stream bit `s(p)` of a window: bit `7 - (p mod 8)` of the byte at offset `p div 8` (`00_scope.md` R8). -/
def streamBit (m : Memory) (p : Nat) : Bool := (Memory.read m (p / 8)).getLsbD (7 - p % 8)

/-! ## The encoder -/

/-- The size of a report with `n` entries, in bytes (`30_encoding.md` R62). -/
def reportSize (n : Nat) : Nat := (22 + 12 * n) / 8

/-- The number of padding bits of a report with `n` entries (`30_encoding.md` R63). -/
def paddingBits (n : Nat) : Nat := 8 * reportSize n - (15 + 12 * n)

/-- The entries of `Bits(ack, L)`: NACK_SN, E1 = more entries remain, E2 = 0 (`42_serialize.md` R130). -/
def entriesBits : List SN → List Bool
  | [] => []
  | v :: rest => fieldBits v ++ [!rest.isEmpty] ++ [false] ++ entriesBits rest

/-- `Bits(ack, L)` (`42_serialize.md` R130): D/C, CPT, ACK_SN, header E1, the entries. -/
def reportBits (ack : SN) (l : List SN) : List Bool :=
  [false] ++ [false, false, false] ++ fieldBits ack ++ [!l.isEmpty] ++ entriesBits l

/-- `Bits(ack, L)` followed by its zero padding (`42_serialize.md` R131). -/
def paddedBits (ack : SN) (l : List SN) : List Bool :=
  reportBits ack l ++ List.replicate (paddingBits l.length) false

/-- `Bytes(ack, L)` (`42_serialize.md` R131): byte `i` holds stream bits `8 i` to `8 i + 7`, first bit in bit 7. -/
def reportBytes (ack : SN) (l : List SN) : List Byte :=
  (List.range (reportSize l.length)).map fun i =>
    streamField (fun p => (paddedBits ack l).getD p false) (8 * i) 8

/-! ## The bit writer -/

/-- The bit writer of `42_serialize.md` R132: its cursor and its image. -/
structure Writer where
  pos : Nat
  img : List Byte
deriving DecidableEq, Repr

/-- A fresh writer: cursor 0, an image of `size` zero bytes. -/
def Writer.start (size : Nat) : Writer := ⟨0, List.replicate size 0⟩

/-- One bit of a byte set to a value. -/
def setBit (x : Byte) (k : Nat) (b : Bool) : Byte :=
  if b then x ||| (1#8 <<< k) else x &&& ~~~ (1#8 <<< k)

/-- Set the bit at the cursor, bit `7 - (pos mod 8)` of `img[pos div 8]`, and advance. -/
def Writer.putBit (w : Writer) (b : Bool) : Writer where
  pos := w.pos + 1
  img := w.img.modify (w.pos / 8) fun x => setBit x (7 - w.pos % 8) b

/-- `PutBits(N, v)`: `v[N-1]` first (`42_serialize.md` R132). -/
def Writer.putBits (w : Writer) {n : Nat} (v : BitVec n) : Writer := (fieldBits v).foldl Writer.putBit w

/-- A flag as a field of one bit. -/
def flagOf (b : Bool) : Flag := if b then 1 else 0

/-- The calls of one entry after another (`42_serialize.md` R133); the E2 argument is the constant 0. -/
def Writer.putEntries (w : Writer) : List SN → Writer
  | [] => w
  | v :: rest =>
    Writer.putEntries (((w.putBits v).putBits (flagOf (!rest.isEmpty))).putBits (0 : Flag)) rest

/-- The whole sequence of `PutBits` calls of one serialization (`42_serialize.md` R133). -/
def Writer.putReport (ack : SN) (l : List SN) : Writer :=
  ((((Writer.start (reportSize l.length)).putBits (0 : Flag)).putBits (0 : BitVec 3)).putBits ack).putBits
    (flagOf (!l.isEmpty)) |>.putEntries l

/-! ## The byte-level view -/

/-- `Nk` of `42_serialize.md` R137: entry `k`, all zeros where there is none. -/
def nackOr0 (l : List SN) (k : Nat) : SN := l.getD k 0

/-- `Ek` of `42_serialize.md` R137: the E1 of entry `k`, zero where there is no entry `k`. -/
def entryE1 (l : List SN) (k : Nat) : Flag := flagOf (k + 1 < l.length)

/-- The byte at an offset, by shift and mask (`42_serialize.md` R137). -/
def viewByte (ack : SN) (l : List SN) (offset : Nat) : Byte :=
  match offset with
  | 0 => 0#4 ++ ack.extractLsb' 6 4
  | 1 => ack.extractLsb' 0 6 ++ flagOf (!l.isEmpty) ++ (nackOr0 l 0).extractLsb' 9 1
  | i + 2 =>
    let j := i / 3
    match i % 3 with
    | 0 => (nackOr0 l (2 * j)).extractLsb' 1 8
    | 1 =>
      (nackOr0 l (2 * j)).extractLsb' 0 1 ++ entryE1 l (2 * j) ++ 0#1 ++
        (nackOr0 l (2 * j + 1)).extractLsb' 5 5
    | _ =>
      (nackOr0 l (2 * j + 1)).extractLsb' 0 5 ++ entryE1 l (2 * j + 1) ++ 0#1 ++
        (nackOr0 l (2 * j + 2)).extractLsb' 9 1

/-! ## The bit reader -/

/-- `GetBit(p)` (`43_deserialize.md` R145). -/
def getBit (ibuf : Memory) (avail p : Nat) : Except Fault Bool :=
  match memRead ibuf avail (p / 8) with
  | .error flt => .error flt
  | .ok v => .ok (v.getLsbD (7 - p % 8))

/-- `GetBits(p, N)`: the first bit read is the most significant (`43_deserialize.md` R145). -/
def getBits (ibuf : Memory) (avail p : Nat) : (n : Nat) → Except Fault (BitVec n)
  | 0 => .ok 0#0
  | n + 1 =>
    match getBit ibuf avail p, getBits ibuf avail (p + 1) n with
    | .ok b, .ok rest => .ok (BitVec.cons b rest)
    | .error flt, _ => .error flt
    | .ok _, .error flt => .error flt

end Sys2Proof.Machine
end

