-- ==== Sys2Proof/Machine/Reader.lean ====
section
/-! DEFINITION. The decoder's shadow, element by element (`43_deserialize.md` R147 to R153), and the reading of a
whole report from IBUF. `SR.DESERIALIZE` runs it in one step on a shadow of its own; the wire elements
(WireElement.lean) run the same element operations one a step on the shadow that State holds. -/

namespace Sys2Proof.Machine

/-- The checks on D/C and CPT, in the order of `43_deserialize.md` R156: D/C only under `STRICT_DC` (R148), then
CPT must be 000 (R149). -/
def prologueCheck (c : Config) (dc : Flag) (cpt : BitVec 3) : Option Failure :=
  if c.strictDc = true ∧ dc ≠ 0 then some (.malformed .dc)
  else if cpt ≠ 0 then some (.malformed .cpt)
  else none

/-- The shadow after the prologue (`43_deserialize.md` R147). -/
def Shadow.start (ack : SN) (e1 : Flag) : Shadow := { pos := 15, ack := ack, e1 := e1, nack := [] }

/-- One entry read: its NACK_SN appended, its E1 kept, the cursor past it; E2 leaves no trace
(`43_deserialize.md` R147, R151). -/
def Shadow.push (sh : Shadow) (sn : SN) (e1 : Flag) : Shadow :=
  { sh with pos := sh.pos + 12, e1 := e1, nack := sh.nack ++ [sn] }

/-- `consumed = (pos + 7) div 8` (`43_deserialize.md` R152). -/
def Shadow.consumed (sh : Shadow) : Nat := (sh.pos + 7) / 8

/-- The commit (`43_deserialize.md` R153) and the response `consumed` (R147). -/
def commit (c : Config) (sh : Shadow) (s : State) : State :=
  respondNat c sh.consumed (setContext sh.ack sh.nack s)

/-- The prologue of IBUF: length (R150), D/C and CPT (R148, R149), then `ack'` and the header E1. -/
def readPrologue (c : Config) (ibuf : Memory) (avail : Nat) : Except Fault (Except Failure Shadow) :=
  if 8 * avail < 15 then .ok (.error (.malformed .trunc))
  else
    match getBits ibuf avail 0 1, getBits ibuf avail 1 3, getBits ibuf avail 4 10, getBits ibuf avail 14 1 with
    | .ok dc, .ok cpt, .ok ack, .ok e1 =>
      match prologueCheck c dc cpt with
      | some f => .ok (.error f)
      | none => .ok (.ok (Shadow.start ack e1))
    | .error flt, _, _, _ => .error flt
    | _, .error flt, _, _ => .error flt
    | _, _, .error flt, _ => .error flt
    | _, _, _, .error flt => .error flt

/-- The entry at the cursor: 10 bits, E1, and E2, which is read and ignored (`43_deserialize.md` R147, R151). -/
def readEntry (ibuf : Memory) (avail : Nat) (sh : Shadow) : Except Fault Shadow :=
  match getBits ibuf avail sh.pos 10, getBits ibuf avail (sh.pos + 10) 1, getBits ibuf avail (sh.pos + 11) 1 with
  | .ok sn, .ok e1, .ok _ => .ok (sh.push sn e1)
  | .error flt, _, _ => .error flt
  | _, .error flt, _ => .error flt
  | _, _, .error flt => .error flt

/-- The loop of `43_deserialize.md` R147: while the last E1 read is 1, the length check (R150), the depth check,
one entry. `rounds` bounds the rounds (R155: at most `(8 * avail - 15) div 12`): an entry announced when no round
is left does not fit. -/
def readEntries (c : Config) (ibuf : Memory) (avail : Nat) : Nat → Shadow → Except Fault (Except Failure Shadow)
  | 0, sh => .ok (if sh.e1 = 1 then .error (.malformed .trunc) else .ok sh)
  | rounds + 1, sh =>
    if sh.e1 = 1 then
      if 8 * avail < sh.pos + 12 then .ok (.error (.malformed .trunc))
      else if fifoFull c sh.nack.length then .ok (.error .full)
      else
        match readEntry ibuf avail sh with
        | .error flt => .error flt
        | .ok sh' => readEntries c ibuf avail rounds sh'
    else .ok (.ok sh)

/-- A whole report from IBUF: the prologue, then the entries (`43_deserialize.md` R147). -/
def readReport (c : Config) (ibuf : Memory) (avail : Nat) : Except Fault (Except Failure Shadow) :=
  match readPrologue c ibuf avail with
  | .error flt => .error flt
  | .ok (.error f) => .ok (.error f)
  | .ok (.ok sh) => readEntries c ibuf avail ((8 * avail - 15) / 12) sh

end Sys2Proof.Machine
end

