-- ==== Sys2Proof/Machine/Deserialize.lean ====
section
/-! DEFINITION. `SR.DESERIALIZE`: `43_deserialize.md` R147 to R156. -/

namespace Sys2Proof.Machine

/-- `SR.DESERIALIZE avail, IBUF -> consumed` under a configuration: the report is read into a shadow, and the
context is replaced only when the last check has passed (R153, R154). -/
def deserialize (c : Config) (opa : Raw) (s : State) : Host.Outcome State Fault Refusal :=
  match readReport c s.ibuf (byteCount opa) with
  | .error flt => .fault flt
  | .ok (.error f) => .next (raise f s)
  | .ok (.ok sh) => .next (commit c sh s)

/-- `SR.DESERIALIZE avail, IBUF -> consumed` (R147). -/
def execSrDeserialize (opa : Raw) (s : State) : Host.Outcome State Fault Refusal := deserialize cfg opa s

end Sys2Proof.Machine
end

