-- ==== Sys2Proof/Machine/Report.lean ====
section
/-! DEFINITION. Unit SR, the operations that touch no window: `41_report_access.md`. An operation that a parameter
of the configuration enters is written for every configuration, and the meaning runs it with the machine's. -/

namespace Sys2Proof.Machine

/-- `SR.CLEAR` under a configuration (R110). -/
def clearReport (c : Config) (s : State) : State := respond 0 (clearContext c s)

/-- `SR.CLEAR` (R110). -/
def execSrClear (s : State) : Host.Outcome State Fault Refusal := .next (clearReport cfg s)

/-- `SR.SETACK sn` (R111). -/
def execSrSetack (opa : Raw) (s : State) : Host.Outcome State Fault Refusal :=
  .next (respond 0 { s with ackSn := trunc10 opa })

/-- `SR.GETACK -> sn` (R112). -/
def execSrGetack (s : State) : Host.Outcome State Fault Refusal := .next (respond (zextRes s.ackSn) s)

/-- `SR.PUSHNACK raw` under a configuration (R113): `Full` and no change where a finite FIFO is full. -/
def pushNack (c : Config) (opa : Raw) (s : State) : State :=
  if fifoFull c s.nack.length then raise .full s
  else respond 0 { s with nack := s.nack ++ [trunc10 opa] }

/-- `SR.PUSHNACK raw` (R113). -/
def execSrPushnack (opa : Raw) (s : State) : Host.Outcome State Fault Refusal := .next (pushNack cfg opa s)

/-- `SR.POPNACK -> value` under a configuration (R114): the head and its removal, or the sentinel; OK in both. -/
def popNack (c : Config) (s : State) : State :=
  match s.nack with
  | [] => respond c.popSentinel s
  | v :: rest => respond (zextRes v) { s with nack := rest }

/-- `SR.POPNACK -> value` (R114). -/
def execSrPopnack (s : State) : Host.Outcome State Fault Refusal := .next (popNack cfg s)

/-- `SR.GETSIZE -> bytes` under a configuration (R115). -/
def getSize (c : Config) (s : State) : State := respondNat c (reportSize s.nack.length) s

/-- `SR.GETSIZE -> bytes` (R115). -/
def execSrGetsize (s : State) : Host.Outcome State Fault Refusal := .next (getSize cfg s)

/-- The items `SR.PRINT` emits: the ACK, then each NACK in FIFO order (R116). -/
def printItems (ack : SN) (nack : List SN) : List SinkItem :=
  ⟨.ack, ack⟩ :: nack.map (fun v => ⟨.nack, v⟩)

/-- `SR.PRINT` (R116): pops nothing, changes nothing but what the sink has taken. -/
def execSrPrint (s : State) : Host.Outcome State Fault Refusal :=
  .next (respond 0 { s with sink := s.sink ++ printItems s.ackSn s.nack })

end Sys2Proof.Machine
end

