-- ==== Sys2Proof/Machine/Reserved.lean ====
section
/-! DEFINITION. The two reserved operation codes: `30_encoding.md` R74, `60_exceptions.md` R168. -/

namespace Sys2Proof.Machine

/-- `op` = 0xE: `raise IllegalOp`, no effect (R74). -/
def execReservedE (s : State) : Host.Outcome State Fault Refusal := .next (raise .illegalOp s)

/-- `op` = 0xF: `raise IllegalOp`, no effect (R74). -/
def execReservedF (s : State) : Host.Outcome State Fault Refusal := .next (raise .illegalOp s)

end Sys2Proof.Machine
end

