-- ==== Sys2Proof/Machine/SeqNum.lean ====
section
/-! DEFINITION. Unit SN, `40_seqnum.md`: five pure operations. They read no state, write none and cannot fail
(`10_state.md` R26). -/

namespace Sys2Proof.Machine

/-- `SN.CONSTRUCT raw -> sn`: `raw mod 1024` (R90). -/
def execSnConstruct (opa : Raw) (s : State) : Host.Outcome State Fault Refusal :=
  .next (respond (zextRes (trunc10 opa)) s)

/-- `SN.VALUE sn -> integer` (R91). -/
def execSnValue (opa : Raw) (s : State) : Host.Outcome State Fault Refusal :=
  .next (respond (zextRes (trunc10 opa)) s)

/-- `SN.EQUALS a, b -> bool` (R92). -/
def execSnEquals (opa : Raw) (opb : SN) (s : State) : Host.Outcome State Fault Refusal :=
  .next (respond (boolRes (trunc10 opa == opb)) s)

/-- `SN.INC a -> sn`: `(a + 1) mod 1024`, ten-bit addition with the carry out discarded (R93). -/
def execSnInc (opa : Raw) (s : State) : Host.Outcome State Fault Refusal :=
  .next (respond (zextRes (trunc10 opa + 1)) s)

/-- `SN.CMP a, b -> verdict` under a configuration (R94). -/
def compareSn (c : Config) (opa : Raw) (opb : SN) (s : State) : State :=
  respond (verdictCode (c.snOrder (trunc10 opa) opb)) s

/-- `SN.CMP a, b -> verdict` (R94). -/
def execSnCmp (opa : Raw) (opb : SN) (s : State) : Host.Outcome State Fault Refusal :=
  .next (compareSn cfg opa opb s)

end Sys2Proof.Machine
end

