-- ==== Sys2Proof/Machine/Serialize.lean ====
section
/-! DEFINITION. `SR.SERIALIZE`: `42_serialize.md` R134, R135. -/

namespace Sys2Proof.Machine

/-- `SR.SERIALIZE cap -> OBUF` under a configuration (R134): the capacity check before the first write, then the
bytes of the report at offsets 0 to `size - 1`, each once, and the result `size`; the context is unchanged either way. -/
def serialize (c : Config) (opa : Raw) (s : State) : Host.Outcome State Fault Refusal :=
  let cap := byteCount opa
  let size := reportSize s.nack.length
  if cap < size then .next (raise .capacity s)
  else
    match memWriteAll cap 0 (reportBytes s.ackSn s.nack) s.obuf with
    | .error flt => .fault flt
    | .ok obuf' => .next (respondNat c size { s with obuf := obuf' })

/-- `SR.SERIALIZE cap -> OBUF` (R134). -/
def execSrSerialize (opa : Raw) (s : State) : Host.Outcome State Fault Refusal := serialize cfg opa s

end Sys2Proof.Machine
end

