-- ==== Sys2Proof/Machine/WireElement.lean ====
section
/-! DEFINITION. The wire elements of the opcode table, read by the decoder one a step (log entry 3): what
`43_deserialize.md` R147 does with one element, on the shadow that State holds. A report read element by element
is committed at its padding, as `SR.DESERIALIZE` commits it in one step. Bits of no report (an element the last E1
read does not announce) are not read: they have no effect (`30_encoding.md` R66). -/

namespace Sys2Proof.Machine

/-- `STATUS.PROLOGUE` under a configuration: a decoding starts, or fails on D/C or CPT (R147 to R149). -/
def readPrologueElement (c : Config) (dc : Flag) (cpt : BitVec 3) (ack : SN) (e1 : Flag) (s : State) : State :=
  match prologueCheck c dc cpt with
  | some f => raise f { s with shadow := none }
  | none => noResponse { s with shadow := some (Shadow.start ack e1) }

/-- `STATUS.NACK_ENTRY` under a configuration: one round of the loop of R147. -/
def readEntryElement (c : Config) (sn : SN) (e1 : Flag) (s : State) : State :=
  match s.shadow with
  | none => noResponse s
  | some sh =>
    if sh.e1 = 1 then
      if fifoFull c sh.nack.length then raise .full { s with shadow := none }
      else noResponse { s with shadow := some (sh.push sn e1) }
    else noResponse s

/-- `STATUS.PADDING` under a configuration: the input ends here. The report is committed where its last E1 read 0 (R152, R153); where an
entry is still announced the input is truncated (R150). The bits themselves are not interpreted. -/
def readPaddingElement (c : Config) (s : State) : State :=
  match s.shadow with
  | none => noResponse s
  | some sh =>
    if sh.e1 = 1 then raise (.malformed .trunc) { s with shadow := none }
    else commit c sh { s with shadow := none }

/-- `STATUS.PROLOGUE` (R60, R147). -/
def execStatusPrologue (dc : Flag) (cpt : BitVec 3) (ack : SN) (e1 : Flag) (s : State) :
    Host.Outcome State Fault Refusal :=
  .next (readPrologueElement cfg dc cpt ack e1 s)

/-- `STATUS.NACK_ENTRY` (R60, R147): E2 is read and ignored (R151). -/
def execStatusNackEntry (sn : SN) (e1 _e2 : Flag) (s : State) : Host.Outcome State Fault Refusal :=
  .next (readEntryElement cfg sn e1 s)

/-- `STATUS.PADDING` (R63, R152). -/
def execStatusPadding (_p : PadBits) (s : State) : Host.Outcome State Fault Refusal :=
  .next (readPaddingElement cfg s)

end Sys2Proof.Machine
end

