-- ==== Sys2Proof/Machine/Dispatch.lean ====
section
/-! DEFINITION. One arm per instruction. -/

namespace Sys2Proof.Machine

def exec (i : Instr) (s : State) : Host.Outcome State Fault Refusal :=
  match i with
  | .snConstruct opa => Sys2Proof.Machine.execSnConstruct opa s
  | .snValue opa => Sys2Proof.Machine.execSnValue opa s
  | .snEquals opa opb => Sys2Proof.Machine.execSnEquals opa opb s
  | .snInc opa => Sys2Proof.Machine.execSnInc opa s
  | .snCmp opa opb => Sys2Proof.Machine.execSnCmp opa opb s
  | .srClear => Sys2Proof.Machine.execSrClear s
  | .srSetack opa => Sys2Proof.Machine.execSrSetack opa s
  | .srGetack => Sys2Proof.Machine.execSrGetack s
  | .srPushnack opa => Sys2Proof.Machine.execSrPushnack opa s
  | .srPopnack => Sys2Proof.Machine.execSrPopnack s
  | .srGetsize => Sys2Proof.Machine.execSrGetsize s
  | .srSerialize opa => Sys2Proof.Machine.execSrSerialize opa s
  | .srDeserialize opa => Sys2Proof.Machine.execSrDeserialize opa s
  | .srPrint => Sys2Proof.Machine.execSrPrint s
  | .reservedE => Sys2Proof.Machine.execReservedE s
  | .reservedF => Sys2Proof.Machine.execReservedF s
  | .statusPrologue dc cpt ack e1 => Sys2Proof.Machine.execStatusPrologue dc cpt ack e1 s
  | .statusNackEntry sn e1 e2 => Sys2Proof.Machine.execStatusNackEntry sn e1 e2 s
  | .statusPadding p => Sys2Proof.Machine.execStatusPadding p s

end Sys2Proof.Machine
end

