-- ==== Sys2Proof/Machine/Port.lean ====
section
/-! DEFINITION. Taking the next input (log entries 1, 13, 14, 19): what a step does around `exec`. -/

namespace Sys2Proof.Machine

/-- The failure a rejected word is answered with: the checks of the prologue (`43_deserialize.md` R149, R156). -/
def rejectFailure (c : Config) : DecodeError → Failure
  | .cptNotStatus dc cpt => (prologueCheck c dc cpt).getD (.malformed .cpt)

/-- What runs an instruction: the machine's `exec`, or that of another configuration. -/
abbrev Runner := Instr → State → Host.Outcome State Fault Refusal

/-- A word is presented: the instruction it decodes to runs; a word the decoder rejects ends whatever decoding is
in progress with the failure the spec gives it. -/
def takeWordWith (c : Config) (run : Runner) (w : PortWord) (s : State) : Host.Outcome State Fault Refusal :=
  match decodeIn c.rawW w with
  | .ok i => run i s
  | .error e => .next (raise (rejectFailure c e) { s with shadow := none })

/-- What an operation that `rst` abandons has done by then (`70_reset_and_hazards.md` R186; log entry 14): a
`SR.SERIALIZE` that passed its capacity check has written any of its bytes, a `SR.PRINT` has emitted any number of
its items; every other operation has changed nothing outside the context. -/
def abandonInstr (i : Instr) (s : State) : State :=
  match i with
  | .srSerialize opa =>
    if byteCount opa < reportSize s.nack.length then s
    else { s with
      obuf := Memory.writeSome (Config.abandonedWrote s.draws) s.obuf 0 (reportBytes s.ackSn s.nack)
      draws := s.draws + 1 }
  | .srPrint => { s with
      sink := s.sink ++ (printItems s.ackSn s.nack).take (Config.abandonedItems s.draws)
      draws := s.draws + 1 }
  | .snConstruct _ | .snValue _ | .snEquals _ _ | .snInc _ | .snCmp _ _ => s
  | .srClear | .srSetack _ | .srGetack | .srPushnack _ | .srPopnack | .srGetsize | .srDeserialize _ => s
  | .reservedE | .reservedF => s
  | .statusPrologue _ _ _ _ | .statusNackEntry _ _ _ | .statusPadding _ => s

/-- `rst` while the operation of a word is in progress: it is abandoned, no response is given for it, and the
block is reset (`70_reset_and_hazards.md` R186). -/
def abandonWord (c : Config) (w : PortWord) (s : State) : State :=
  match decodeIn c.rawW w with
  | .ok i => resetBlock c (abandonInstr i s)
  | .error _ => resetBlock c s

/-- The next input: an operation runs complete before the next is accepted (`20_memory.md` R48); with no input the
block waits and gives no response (`70_reset_and_hazards.md` R185). A window is lent between operations only
(`20_memory.md` R49). -/
def takeInputWith (c : Config) (run : Runner) (s : State) : Host.Outcome State Fault Refusal :=
  match s.inputs with
  | [] => .next (noResponse s)
  | .rst :: rest => .next (resetBlock c { s with inputs := rest })
  | .rstDuring w :: rest => .next (abandonWord c w { s with inputs := rest })
  | .lendIbuf bytes :: rest => .next (noResponse { s with inputs := rest, ibuf := Memory.ofBytes bytes })
  | .lendObuf bytes :: rest => .next (noResponse { s with inputs := rest, obuf := Memory.ofBytes bytes })
  | .word w :: rest => takeWordWith c run w { s with inputs := rest }

/-- The machine takes a word. -/
def takeWord (w : PortWord) (s : State) : Host.Outcome State Fault Refusal := takeWordWith cfg exec w s

/-- The machine takes its next input. -/
def takeInput (s : State) : Host.Outcome State Fault Refusal := takeInputWith cfg exec s

/-- A word presented next, before every input that waits. -/
def present (w : PortWord) (s : State) : State := { s with inputs := .word w :: s.inputs }

/-- A table row given as a number presented next; a number that is no row's changes nothing. -/
def presentTableWord (s : State) (nbits w : Nat) : State :=
  match tableWord nbits w with
  | none => s
  | some word => present word s

end Sys2Proof.Machine
end

