-- ==== Sys2Proof/Machine/Step.lean ====
section
/-! DEFINITION. The step, and placing a word where the next step takes it. -/

namespace Sys2Proof.Machine

/-- One step: the next input is taken, and what it asks for is done completely (`92_eei_decisions.md` D1). -/
def step (s : State) : Host.Outcome State Fault Refusal := takeInput s

/-- `s` with a table row's word presented next (log entries 1, 2). -/
def State.withFetchWord (s : State) (nbits w : Nat) : State := presentTableWord s nbits w

end Sys2Proof.Machine
end

