-- ==== Sys2Proof/Machine/Configured.lean ====
section
/-! DEFINITION. The block for every configuration (`00_scope.md` R7: "A claim proved for every value of an OPEN
parameter holds for every conforming implementation"). The host's interface has one machine, `exec` and `step`,
which run with `cfg`, the values taken; `execIn cfg` and `stepIn cfg` are these two (Laws/Configured.lean). A meaning
that no parameter enters is the one `exec` calls. -/

namespace Sys2Proof.Machine

/-- One instruction under a configuration. -/
def execIn (c : Config) (i : Instr) (s : State) : Host.Outcome State Fault Refusal :=
  match i with
  | .snConstruct opa => execSnConstruct opa s
  | .snValue opa => execSnValue opa s
  | .snEquals opa opb => execSnEquals opa opb s
  | .snInc opa => execSnInc opa s
  | .snCmp opa opb => .next (compareSn c opa opb s)
  | .srClear => .next (clearReport c s)
  | .srSetack opa => execSrSetack opa s
  | .srGetack => execSrGetack s
  | .srPushnack opa => .next (pushNack c opa s)
  | .srPopnack => .next (popNack c s)
  | .srGetsize => .next (getSize c s)
  | .srSerialize opa => serialize c opa s
  | .srDeserialize opa => deserialize c opa s
  | .srPrint => execSrPrint s
  | .reservedE => execReservedE s
  | .reservedF => execReservedF s
  | .statusPrologue dc cpt ack e1 => .next (readPrologueElement c dc cpt ack e1 s)
  | .statusNackEntry sn e1 _ => .next (readEntryElement c sn e1 s)
  | .statusPadding _ => .next (readPaddingElement c s)

/-- One step under a configuration. -/
def stepIn (c : Config) (s : State) : Host.Outcome State Fault Refusal := takeInputWith c (execIn c) s

/-- The state after reset under a configuration (`10_state.md` R31). -/
def State.resetIn (c : Config) : State := { State.reset with ackSn := c.ackReset }

end Sys2Proof.Machine
end

