-- ==== Sys2Proof/Machine/Contexts.lean ====
section
/-! DEFINITION. A block of `N_CTX` contexts (`10_state.md` R33): "each with its own `ACK_SN` and `NACK` and selected
by a context index the caller supplies with every operation". With `N_CTX` = 1, the value taken, the block is the
machine (log entry 9). -/

namespace Sys2Proof.Machine

/-- What one context holds: the report, and the reception of it in progress (`10_state.md` R28, log entry 3). -/
structure Context where
  ackSn : SN
  nack : List SN
  shadow : Option Shadow
deriving DecidableEq, Repr

/-- A block of several contexts. The context fields of `block` show the context of the last operation and are not
read; everything else of `block` is shared: the windows, the response, the sink and the inputs. -/
structure Bank (nCtx : Nat) where
  contexts : Vector Context nCtx
  block : State
deriving DecidableEq, Repr

/-- The context a state holds. -/
def State.context (s : State) : Context := ⟨s.ackSn, s.nack, s.shadow⟩

/-- A state with another context selected. -/
def State.withContext (s : State) (x : Context) : State :=
  { s with ackSn := x.ackSn, nack := x.nack, shadow := x.shadow }

/-- An instruction on context `k` of a block of `c.nCtx` contexts. -/
def execAt (c : Config) (k : Fin c.nCtx) (i : Instr) (b : Bank c.nCtx) :
    Host.Outcome (Bank c.nCtx) Fault Refusal :=
  match execIn c i (b.block.withContext b.contexts[k]) with
  | .next t => .next ⟨b.contexts.set k t.context, t⟩
  | .fault flt => .fault flt
  | .refused r => .refused r

/-- The context after reset and after `SR.CLEAR` (`10_state.md` R31). -/
def Context.resetIn (c : Config) : Context := ⟨c.ackReset, [], none⟩

/-- A block of several contexts after reset. -/
def Bank.resetIn (c : Config) : Bank c.nCtx := ⟨Vector.replicate c.nCtx (Context.resetIn c), State.resetIn c⟩

end Sys2Proof.Machine
end

