-- ==== Sys2Proof/Machine/Pseudo.lean ====
section
/-! DEFINITION. The pseudo-operations of `30_encoding.md` R77 that expand to operations, each as its
fixed sequence. (`SR.HASMORE` issues none: `State.hasMore` of Flags.lean.) -/

namespace Sys2Proof.Machine

/-- `SR.NEW ack` = `SR.CLEAR` ; `SR.SETACK ack`. -/
def pseudoNew (ack : Raw) : List Instr := [.srClear, .srSetack ack]

/-- `SN.NEXT raw -> sn` = `SN.CONSTRUCT raw` ; `SN.INC` of its result. -/
def pseudoNext (raw : Raw) : List Instr := [.snConstruct raw, .snInc (trunc10 raw).toNat]

/-- `SR.PUSHSN sn` = `SR.PUSHNACK` with `opa` = zext(sn). -/
def pseudoPushSn (sn : SN) : List Instr := [.srPushnack sn.toNat]

end Sys2Proof.Machine
end

