-- ==== Sys2Proof/Safety.lean ====
section
/-! DEFINITION. The terms the statements use: the invariant that every step keeps, what it is for a window to
hold an acceptable report, runs of several instructions, and a report as its wire elements. -/

namespace Sys2Proof.Machine

/-- A shadow's cursor stands behind the prologue and the entries read (`10_state.md` R27). -/
def Shadow.Ok (sh : Shadow) : Prop := sh.pos = 15 + 12 * sh.nack.length

/-- A response as `30_encoding.md` R73 describes it: `res` is 0 unless the status is OK, `info` is 0 unless it is
`MALFORMED`, and then 0 or 1 (2 is for `STRICT_DC` alone, which the machine does not set); the `RES_W` wires of `res`
carry the result exactly. -/
def Response.Ok (r : Response) : Prop :=
  (r.status ≠ .ok → r.res = 0) ∧ (r.status ≠ .malformed → r.info = 0) ∧ r.info.toNat ≤ 1 ∧
    (resBits cfg.resW r.res).toInt = r.res

/-- The machine's invariant: both windows are canonical, the shadow's cursor counts what it holds, and the
response is one of R73's. -/
def Inv (s : State) : Prop :=
  Memory.wf s.ibuf ∧ Memory.wf s.obuf ∧ (∀ sh, s.shadow = some sh → sh.Ok) ∧ (∀ r, s.rsp = some r → r.Ok)

/-- The E1 chain in the window ends after exactly `n` entries (`30_encoding.md` R65). -/
def Announces (m : Memory) (n : Nat) : Prop :=
  streamBit m 14 = decide (0 < n) ∧ ∀ k, k < n → streamBit m (25 + 12 * k) = decide (k + 1 < n)

/-- The CPT field of the window (`30_encoding.md` R60). -/
def windowCpt (m : Memory) : BitVec 3 := streamField (streamBit m) 1 3

/-- The window of `avail` bytes holds a report of `n` entries that the decoder accepts (`43_deserialize.md` R155,
"Accepted set"): CPT = 000 and an E1 chain that reaches a 0 within `8 * avail` bits; all other bits are free. -/
def Accepts (m : Memory) (avail n : Nat) : Prop :=
  15 + 12 * n ≤ 8 * avail ∧ windowCpt m = 0 ∧ Announces m n

/-- The ACK_SN field of the window (`30_encoding.md` R60). -/
def windowAck (m : Memory) : SN := streamField (streamBit m) 4 10

/-- The NACK_SN fields of the first `n` entries of the window (`30_encoding.md` R60). -/
def windowNacks (m : Memory) (n : Nat) : List SN :=
  (List.range n).map fun k => streamField (streamBit m) (15 + 12 * k) 10

/-- The padding element behind `n` entries of the window (`30_encoding.md` R63). -/
def windowPadding (m : Memory) (n : Nat) : PadBits :=
  if n % 2 = 0 then .one (streamField (streamBit m) (15 + 12 * n) 1)
  else .five (streamField (streamBit m) (15 + 12 * n) 5)

/-- The report of `n` entries in the window, cut into the words of its wire elements. -/
def windowWords (m : Memory) (n : Nat) : List PortWord :=
  .wire15 (streamField (streamBit m) 0 15) ::
    ((List.range n).map fun k => .wire12 (streamField (streamBit m) (15 + 12 * k) 12)) ++
      [.wirePad (windowPadding m n)]

/-- Words presented one after the other, each a complete step; `none` where one does not end in a next state. -/
def runWords : List PortWord → State → Option State
  | [], s => some s
  | w :: rest, s =>
    match takeWord w s with
    | .next t => runWords rest t
    | .fault _ => none
    | .refused _ => none

/-- Instructions executed one after the other. -/
def runInstrs : List Instr → State → Option State
  | [], s => some s
  | i :: rest, s =>
    match exec i s with
    | .next t => runInstrs rest t
    | .fault _ => none
    | .refused _ => none

/-- Whether an instruction is one of the sixteen operation codes of the command port (`30_encoding.md` R70, R74),
not an element of the wire format. -/
def isCommand : Instr → Bool
  | .statusPrologue _ _ _ _ | .statusNackEntry _ _ _ | .statusPadding _ => false
  | .snConstruct _ | .snValue _ | .snEquals _ _ | .snInc _ | .snCmp _ _ => true
  | .srClear | .srSetack _ | .srGetack | .srPushnack _ | .srPopnack | .srGetsize => true
  | .srSerialize _ | .srDeserialize _ | .srPrint => true
  | .reservedE | .reservedF => true

end Sys2Proof.Machine
end

