-- ==== Sys2Proof/Certificates/Slice0/Obligations.lean ====
section
/-! DEFINITION. The statements for the provers, from the numbered rules of spec/. A conclusion of the form
`exec i s = .next { s with … }` is result, completion and frame at once: every field not named is unchanged.
`1431655763` is the spec's own bound on the number of entries whose size fits `RES_W` bits (`41_report_access.md`
R115); what happens above it is the model's choice (log entry 11) and is stated on its own. -/

open Sys2Proof Sys2Proof.Machine

/-! ## Encodings -/

/-- Every well-formed instruction, with every operand, is what its word decodes to. -/
def Obligations.DecodeOfEncodeIsTheInstruction : Prop :=
  ∀ i : Instr, i.wf = true → decode (encode i) = .ok i

/-- What a word decodes to is well formed, is what its own encoding decodes to, and has that word for its encoding:
exactly so for a wire element; for a command with the same `op` and each bus either as its wires carry it or zero
(`30_encoding.md` R68, R70: a bus the format does not use is ignored; R71: how `opa` is read). A number that the
`RAW_W` wires of `opa` do not carry cannot be presented (`92_eei_decisions.md` D4): that it is sampled modulo
`2 ^ RAW_W`, and that what it decodes to is thereby well formed, is the model's choice (log entry 10). -/
def Obligations.EncodeOfDecodeIsTheWord : Prop :=
  ∀ (w : PortWord) (i : Instr), decode w = .ok i →
    i.wf = true ∧ decode (encode i) = .ok i ∧ (isCommand i = false → encode i = w) ∧
      (isCommand i = true → ∃ op opa opb opa' opb', w = .command op opa opb ∧ encode i = .command op opa' opb' ∧
        (opa' = opa % 2 ^ cfg.rawW ∨ opa' = 0) ∧ (opb' = opb ∨ opb' = 0))

/-- The decoder rejects a word exactly when it is a prologue whose bits under the table's mask are not its match
(CPT not 000): every command, every NACK entry and every padding is an instruction (`30_encoding.md` R66, R74). -/
def Obligations.OnlyPrologueOffStatusCptIsRejected : Prop :=
  ∀ w : PortWord, (∃ e, decode w = .error e) ↔ ∃ v : BitVec 15, w = .wire15 v ∧ v &&& 0x3800 ≠ 0x0000

/-- Words written out from the spec's encodings: op codes of `30_encoding.md` R70, and the prologue and the first
two entries of source vector V4 (`95_test_vectors.md` 1.1). -/
def Obligations.SpecWordsDecodeToTheirInstructions : Prop :=
  decode (.command 0b0000 1897 0) = .ok (.snConstruct 1897) ∧
  decode (.command 0b0100 1023 512) = .ok (.snCmp 1023 512) ∧
  decode (.command 0b1000 754 0) = .ok (.srPushnack 754) ∧
  decode (.command 0b1011 5 0) = .ok (.srSerialize 5) ∧
  decode (.command 0b1110 7 7) = .ok .reservedE ∧
  decode (.wire15 0b000000000000101) = .ok (.statusPrologue 0 0 2 1) ∧
  decode (.wire12 0b111111110110) = .ok (.statusNackEntry 1021 1 0) ∧
  decode (.wire12 0b101111001000) = .ok (.statusNackEntry 754 0 0)

/-! ## The step -/

/-- A step runs the instruction that the next input decodes to, on the state without that input. That a step takes
one input of a queue is the model's choice (log entry 1), the level of description that `92_eei_decisions.md` D1 and
`20_memory.md` R48 give; that a wire element is an instruction is the model's choice too (log entry 3). -/
def Obligations.StepRunsTheDecodedInstruction : Prop :=
  ∀ (s : State) (w : PortWord) (rest : List Input) (i : Instr),
    s.inputs = .word w :: rest → decode w = .ok i → step s = exec i { s with inputs := rest }

/-- A rejected word (CPT not 000) is answered `Malformed(CPT)` and ends the decoding in progress (the model's
choice, log entry 19; the failure is `43_deserialize.md` R149's). -/
def Obligations.StepAnswersARejectedPrologueMalformed : Prop :=
  ∀ (s : State) (w : PortWord) (rest : List Input) (e : DecodeError),
    s.inputs = .word w :: rest → decode w = .error e →
      step s = .next { s with inputs := rest, shadow := none, rsp := some ⟨.malformed, 1, 0⟩ }

/-- `rst` (`70_reset_and_hazards.md` R185, R186): the context goes to the reset state, what was in progress is
abandoned, no response is given; the windows are the caller's and stay (log entry 14). -/
def Obligations.StepTakesReset : Prop :=
  ∀ (s : State) (rest : List Input), s.inputs = .rst :: rest →
    step s = .next { s with inputs := rest, ackSn := State.reset.ackSn, nack := [], shadow := none, rsp := none }

/-- `rst` while the operation of a word is in progress (`70_reset_and_hazards.md` R186): as `rst`, and OBUF holds at
each offset the old byte or, where the operation was a `SR.SERIALIZE` that had passed its capacity check, the byte of
the report; what an abandoned `SR.PRINT` had emitted is some first items of its own (log entry 14). -/
def Obligations.ResetDuringAnOperationAbandonsIt : Prop :=
  ∀ (s : State) (w : PortWord) (rest : List Input), Memory.wf s.obuf → s.inputs = .rstDuring w :: rest →
    ∃ (m : Memory) (items : List SinkItem) (d : Nat),
      step s = .next { s with inputs := rest, ackSn := State.reset.ackSn, nack := [], shadow := none, rsp := none,
                              obuf := m, sink := s.sink ++ items, draws := d } ∧
      (∀ a, Memory.read m a = Memory.read s.obuf a ∨
        ((reportBytes s.ackSn s.nack)[a]? = some (Memory.read m a) ∧
          ∃ opa, decode w = .ok (.srSerialize opa) ∧ reportSize s.nack.length ≤ opa)) ∧
      (items = [] ∨ (decode w = .ok .srPrint ∧ items <+: printItems s.ackSn s.nack))

/-- A step without a word: with no input the block waits; lending a window replaces its contents, each byte at
its offset and nothing beyond, and leaves the block as it was (log entries 1, 12, 13). -/
def Obligations.StepWithoutAWordLeavesTheBlock : Prop :=
  ∀ (s : State) (rest : List Input) (bytes : List Byte),
    (s.inputs = [] → step s = .next { s with rsp := none }) ∧
    (s.inputs = .lendIbuf bytes :: rest → ∃ m, step s = .next { s with inputs := rest, ibuf := m, rsp := none } ∧
      ∀ a, Memory.read m a = bytes.getD a 0) ∧
    (s.inputs = .lendObuf bytes :: rest → ∃ m, step s = .next { s with inputs := rest, obuf := m, rsp := none } ∧
      ∀ a, Memory.read m a = bytes.getD a 0)

/-- No bound check ever fails and no instruction is refused: from every state a step answers a next state
(`20_memory.md` R43: an access outside its window is a defect of the model). -/
def Obligations.EveryStepAnswersANextState : Prop := ∀ s : State, ∃ t, step s = .next t

/-- Every step keeps the invariant. -/
def Obligations.EveryStepKeepsTheInvariant : Prop := ∀ s t : State, Inv s → step s = .next t → Inv t

/-- The state after reset meets the invariant. -/
def Obligations.ResetMeetsTheInvariant : Prop := Inv State.reset

/-- The state after reset (`10_state.md` R31): the FIFO empty, `ACK_SN` at the configuration's `ACK_RESET`, no
shadow, no valid response, `COUNT` 0 and `EMPTY` 1. -/
def Obligations.ResetStateIsTheSpecs : Prop :=
  State.reset.nack = [] ∧ State.reset.ackSn = cfg.ackReset ∧ State.reset.shadow = none ∧ State.reset.rsp = none ∧
    State.reset.count = 0 ∧ State.reset.empty = 1

/-! ## Unit SN -/

/-- `40_seqnum.md` R90: `raw mod 1024`, floor modulo, whether a bus of any width of at least 10 is read as unsigned or
as two's complement. -/
def Obligations.ConstructReducesModulo1024 : Prop :=
  ∀ (opa : Raw) (s : State), ∃ v : Res, exec (.snConstruct opa) s = .next { s with rsp := some ⟨.ok, 0, v⟩ } ∧
    v = (opa % 1024 : Nat) ∧
    ∀ (rawW : Nat) (bus : BitVec rawW), 10 ≤ rawW → bus.toNat = opa → v = bus.toInt % 1024

/-- `40_seqnum.md` R91: the ten bits as a non-negative integer below 1024, as `SN.CONSTRUCT` gives them. -/
def Obligations.ValueReadsTenBits : Prop :=
  ∀ (opa : Raw) (s : State), ∃ v : Res, exec (.snValue opa) s = .next { s with rsp := some ⟨.ok, 0, v⟩ } ∧
    v = (opa % 1024 : Nat) ∧ 0 ≤ v ∧ v < 1024 ∧ exec (.snValue opa) s = exec (.snConstruct opa) s

/-- `40_seqnum.md` R92: 1 exactly when the reduced values are equal, else 0. -/
def Obligations.EqualsComparesReducedValues : Prop :=
  ∀ (opa : Raw) (opb : SN) (s : State),
    exec (.snEquals opa opb) s =
      .next { s with rsp := some ⟨.ok, 0, if opa % 1024 = opb.toNat then 1 else 0⟩ }

/-- `40_seqnum.md` R93: `(a + 1) mod 1024`, the operand's upper bits ignored. -/
def Obligations.IncrementWrapsModulo1024 : Prop :=
  ∀ (opa : Raw) (s : State), ∃ v : Res, exec (.snInc opa) s = .next { s with rsp := some ⟨.ok, 0, v⟩ } ∧
    v = ((opa % 1024 + 1) % 1024 : Nat)

/-- `40_seqnum.md` R94: the code of the configuration's verdict on the two ten-bit values. -/
def Obligations.CompareAnswersTheVerdictCode : Prop :=
  ∀ (opa : Raw) (opb : SN) (s : State), ∃ (a : SN) (v : Res), a.toNat = opa % 1024 ∧
    exec (.snCmp opa opb) s = .next { s with rsp := some ⟨.ok, 0, v⟩ } ∧
    v = match cfg.snOrder a opb with
      | .eq => 0
      | .lt => 1
      | .gt => 2
      | .un => 3

/-- `SN.CMP` completes for every pair, with a result of 0 to 3 that no state enters, 0 exactly on equal values:
all that `40_seqnum.md` R96 settles about the result, under the open `SN_ORDER`. -/
def Obligations.CompareAnswersZeroExactlyOnEqualValues : Prop :=
  ∀ (opa : Raw) (opb : SN), ∃ v : Res, 0 ≤ v ∧ v ≤ 3 ∧ (v = 0 ↔ opa % 1024 = opb.toNat) ∧
    ∀ s : State, exec (.snCmp opa opb) s = .next { s with rsp := some ⟨.ok, 0, v⟩ }

/-- The machine's open parameters are admissible: EQ exactly on equal values, LT not exactly in raw numeric
order (`40_seqnum.md` R96), `POP_SENTINEL < 0` and representable in `RES_W` bits, and the widths are at least the
spec's least ones (`00_scope.md` R7). -/
def Obligations.MachineConfigurationIsAdmissible : Prop := cfg.Admissible

/-- `SN_ORDER_DEFAULT` by the forward distance (`40_seqnum.md` R95), its tie open: the four rows, LT mirrored by
GT off the tie, the increment always later, and no transitivity. -/
def Obligations.DefaultOrderGoesByForwardDistance : Prop :=
  ∀ (tie : Tie) (a b : SN) (fwd : Nat), fwd = (b.toNat + 1024 - a.toNat) % 1024 →
    (fwd = 0 → a = b ∧ snOrderDefault tie a b = .eq) ∧
    (1 ≤ fwd → fwd ≤ 511 → snOrderDefault tie a b = .lt) ∧
    (513 ≤ fwd → snOrderDefault tie a b = .gt) ∧
    (fwd = 512 → snOrderDefault tie a b = tieVerdict tie) ∧
    (fwd ≠ 512 → (snOrderDefault tie a b = .lt ↔ snOrderDefault tie b a = .gt)) ∧
    snOrderDefault tie a (a + 1) = .lt ∧
    snOrderDefault tie 0 400 = .lt ∧ snOrderDefault tie 400 800 = .lt ∧ snOrderDefault tie 0 800 = .gt

/-- A configuration with `SN_ORDER = SN_ORDER_DEFAULT`, admissible widths and a negative representable sentinel is
admissible, whatever `SN_TIE` (`40_seqnum.md` R95, R96). -/
def Obligations.DefaultOrderIsAdmissible : Prop :=
  ∀ c : Config, c.snOrder = snOrderDefault c.snTie → 10 ≤ c.rawW → 12 ≤ c.resW → c.popSentinel < 0 →
    -2 ^ (c.resW - 1) ≤ c.popSentinel → c.Admissible

/-- `SN.CMP` under the named hypothesis `SN_ORDER = SN_ORDER_DEFAULT` (`93_implementation_defined.md` U1), for every
configuration: 1 up to forward distance 511, 2 from 513 on; at 512 the code of `SN_TIE`, whose value nothing says (U2). -/
def Obligations.CompareUnderTheDefaultOrder : Prop :=
  ∀ c : Config, c.snOrder = snOrderDefault c.snTie → ∀ (opa : Raw) (opb : SN) (s : State) (fwd : Nat),
    fwd = (opb.toNat + 1024 - opa % 1024) % 1024 →
      (1 ≤ fwd → fwd ≤ 511 → execIn c (.snCmp opa opb) s = .next { s with rsp := some ⟨.ok, 0, 1⟩ }) ∧
      (513 ≤ fwd → execIn c (.snCmp opa opb) s = .next { s with rsp := some ⟨.ok, 0, 2⟩ }) ∧
      (fwd = 512 → execIn c (.snCmp opa opb) s =
        .next { s with rsp := some ⟨.ok, 0, verdictCode (tieVerdict c.snTie)⟩ })

/-! ## Unit SR: construction and access -/

/-- `41_report_access.md` R110: the context becomes the reset context, whatever it held, and `SR.CLEAR` is
idempotent; `COUNT` becomes 0 and `EMPTY` 1. -/
def Obligations.ClearRestoresTheResetContext : Prop :=
  ∀ s : State, ∃ t : State, exec .srClear s = .next t ∧
    t = { s with ackSn := State.reset.ackSn, nack := State.reset.nack, rsp := some ⟨.ok, 0, 0⟩ } ∧
    t.count = 0 ∧ t.empty = 1 ∧ exec .srClear t = .next t

/-- `41_report_access.md` R111. -/
def Obligations.SetAckOverwritesReducedValue : Prop :=
  ∀ (opa : Raw) (s : State), ∃ v : SN, v.toNat = opa % 1024 ∧
    exec (.srSetack opa) s = .next { s with ackSn := v, rsp := some ⟨.ok, 0, 0⟩ }

/-- `41_report_access.md` R112. -/
def Obligations.GetAckReturnsTheRegister : Prop :=
  ∀ s : State, ∃ v : Res, v = s.ackSn.toNat ∧ exec .srGetack s = .next { s with rsp := some ⟨.ok, 0, v⟩ }

/-- `41_report_access.md` R113, for every `NACK_DEPTH`: at a full FIFO `Full` and no change, else the reduced value
at the tail; the machine's FIFO is unbounded, so there a push always completes: `COUNT` grows by 1, `EMPTY` is 0. -/
def Obligations.PushAppendsReducedValueOrIsFull : Prop :=
  ∀ (c : Config) (opa : Raw) (s : State), ∃ v : SN, v.toNat = opa % 1024 ∧
    (c.nackDepth = some s.nack.length → execIn c (.srPushnack opa) s = .next { s with rsp := some ⟨.full, 0, 0⟩ }) ∧
    (c.nackDepth ≠ some s.nack.length →
      execIn c (.srPushnack opa) s = .next { s with nack := s.nack ++ [v], rsp := some ⟨.ok, 0, 0⟩ }) ∧
    ∃ t, exec (.srPushnack opa) s = .next t ∧ t = { s with nack := s.nack ++ [v], rsp := some ⟨.ok, 0, 0⟩ } ∧
      t.count = s.count + 1 ∧ t.empty = 0

/-- `41_report_access.md` R114: OK in both arms; on an empty FIFO `POP_SENTINEL`, a negative value, and the FIFO
stays empty; else the head, which leaves: `COUNT` falls by 1, `EMPTY` becomes 1 with the last entry. -/
def Obligations.PopReturnsTheHeadOrANegativeValue : Prop :=
  ∀ s : State,
    (s.nack = [] → cfg.popSentinel < 0 ∧
      exec .srPopnack s = .next { s with rsp := some ⟨.ok, 0, cfg.popSentinel⟩ }) ∧
    (∀ (sn : SN) (rest : List SN), s.nack = sn :: rest → ∃ (v : Res) (t : State), v = sn.toNat ∧
      exec .srPopnack s = .next t ∧ t = { s with nack := rest, rsp := some ⟨.ok, 0, v⟩ } ∧
      t.count + 1 = s.count ∧ (t.empty = 1 ↔ rest = []))

/-- `41_report_access.md` R115: `(22 + 12 n) div 8`, the least number of bytes that hold `15 + 12 n` bits, as far as
it fits `res`: for the machine's `RES_W`, and for that of every configuration. -/
def Obligations.GetSizeCountsTheBytes : Prop :=
  ∀ s : State, ∃ size : Nat, size = (22 + 12 * s.nack.length) / 8 ∧ 8 * size < 15 + 12 * s.nack.length + 8 ∧
    15 + 12 * s.nack.length ≤ 8 * size ∧
    (s.nack.length ≤ 1431655763 → exec .srGetsize s = .next { s with rsp := some ⟨.ok, 0, size⟩ }) ∧
    ∀ c : Config, size < 2 ^ (c.resW - 1) → execIn c .srGetsize s = .next { s with rsp := some ⟨.ok, 0, size⟩ }

/-- `41_report_access.md` R116: the ACK, then each NACK in FIFO order, at the end of what the sink has taken; no
state of the block changes; `dbg_kind` is 0 for an ACK, 1 for a NACK. -/
def Obligations.PrintEmitsAckThenNacks : Prop :=
  SinkKind.ack.code = 0 ∧ SinkKind.nack.code = 1 ∧ ∀ s : State, exec .srPrint s =
    .next { s with
      sink := s.sink ++ [⟨.ack, s.ackSn⟩] ++ s.nack.map (fun v => ⟨.nack, v⟩)
      rsp := some ⟨.ok, 0, 0⟩ }

/-- `30_encoding.md` R74, `60_exceptions.md` R168: both reserved codes answer `ILLEGAL_OP` (status 3), `info` 0,
and have no effect. -/
def Obligations.ReservedCodesAnswerIllegalOp : Prop :=
  ∀ s : State, exec .reservedE s = .next { s with rsp := some ⟨.illegalOp, 0, 0⟩ } ∧
    exec .reservedF s = .next { s with rsp := some ⟨.illegalOp, 0, 0⟩ } ∧ Status.illegalOp.code = 3

/-- `41_report_access.md` R117, pushes: they append the reduced values in order. -/
def Obligations.PushesAppendInOrder : Prop :=
  ∀ (raws : List Raw) (s : State), ∃ t, runInstrs (raws.map .srPushnack) s = some t ∧
    t.nack = s.nack ++ raws.map (fun r => BitVec.ofNat 10 (r % 1024)) ∧ t.ackSn = s.ackSn

/-- `41_report_access.md` R117, pops: after `k` pops the first `k` entries are gone, and the next pop returns the
oldest entry still present, or a negative value where none is; never a failure. -/
def Obligations.PopsReturnOldestFirst : Prop :=
  ∀ (k : Nat) (s : State), ∃ t, runInstrs (List.replicate k .srPopnack) s = some t ∧
    t.nack = s.nack.drop k ∧ t.ackSn = s.ackSn ∧
    ∃ u r, exec .srPopnack t = .next u ∧ u.rsp = some r ∧ r.status = .ok ∧
      (∀ v, s.nack[k]? = some v → r.res = v.toNat) ∧ (s.nack.length ≤ k → r.res < 0)

/-- The derived outputs (`10_state.md` R24) and `SR.HASMORE` (`30_encoding.md` R77): `EMPTY` = 0, that is
HASMORE = 1, exactly when a further pop returns a real value (not a negative one). -/
def Obligations.EmptyTellsWhetherAPopReturnsARealValue : Prop :=
  ∀ s : State, s.count = s.nack.length ∧ (s.empty = 1 ↔ s.count = 0) ∧ (s.hasMore = 1 ↔ s.empty = 0) ∧
    ∃ t r, exec .srPopnack s = .next t ∧ t.rsp = some r ∧ (s.hasMore = 1 ↔ 0 ≤ r.res)

/-- The pseudo-operations that issue operations (`30_encoding.md` R77). -/
def Obligations.PseudoOperationsDoTheirSequences : Prop :=
  ∀ (opa : Raw) (sn : SN) (s : State), ∃ (a : SN) (v : Res),
    a.toNat = opa % 1024 ∧ v = ((opa + 1) % 1024 : Nat) ∧
    runInstrs (pseudoNew opa) s = some { s with ackSn := a, nack := [], rsp := some ⟨.ok, 0, 0⟩ } ∧
    runInstrs (pseudoNext opa) s = some { s with rsp := some ⟨.ok, 0, v⟩ } ∧
    runInstrs (pseudoPushSn sn) s = some { s with nack := s.nack ++ [sn], rsp := some ⟨.ok, 0, 0⟩ }

/-! ## The wire format and the encoder -/

/-- `30_encoding.md` R62, R63: the size of a report, as a ceiling and in its other forms, and its padding: one bit
after an even number of entries, five after an odd number. -/
def Obligations.ReportSizeAndPadding : Prop :=
  ∀ n j : Nat, 15 + 12 * n ≤ 8 * reportSize n ∧ 8 * reportSize n < 15 + 12 * n + 8 ∧
    reportSize n = (22 + 12 * n) / 8 ∧ reportSize n = (11 + 6 * n) / 4 ∧
    reportSize (2 * j) = 3 * j + 2 ∧ reportSize (2 * j + 1) = 3 * j + 4 ∧
    paddingBits n + (15 + 12 * n) = 8 * reportSize n ∧ (n % 2 = 0 → paddingBits n = 1) ∧
    (n % 2 = 1 → paddingBits n = 5)

/-- The layout of `30_encoding.md` R60 (with R61, R63, R64), read from the bytes of a report by stream position:
every field of every row of the table, padding included; and the first byte is at most 0x0f. -/
def Obligations.ReportBytesHaveTheLayout : Prop :=
  ∀ (ack : SN) (l : List SN) (s : Nat → Bool), s = streamBit (Memory.ofBytes (reportBytes ack l)) →
    (reportBytes ack l).length = reportSize l.length ∧
    (Memory.read (Memory.ofBytes (reportBytes ack l)) 0).toNat ≤ 0x0f ∧
    s 0 = false ∧ streamField s 1 3 = 0 ∧ streamField s 4 10 = ack ∧ s 14 = decide (1 ≤ l.length) ∧
    (∀ k sn, l[k]? = some sn → streamField s (15 + 12 * k) 10 = sn ∧
      s (25 + 12 * k) = decide (k + 1 < l.length) ∧ s (26 + 12 * k) = false) ∧
    (∀ p, 15 + 12 * l.length ≤ p → p < 8 * reportSize l.length → s p = false)

/-- `42_serialize.md` R132, R133: the bit writer, run through the calls of one serialization, ends with the bytes
of the report for its image and its cursor behind the last field. -/
def Obligations.BitWriterWritesTheReport : Prop :=
  ∀ (ack : SN) (l : List SN), (Writer.putReport ack l).img = reportBytes ack l ∧
    (Writer.putReport ack l).pos = 15 + 12 * l.length

/-- `42_serialize.md` R137: the byte-level view gives each byte of the report. -/
def Obligations.ByteViewIsTheReport : Prop :=
  ∀ (ack : SN) (l : List SN) (i : Nat), i < reportSize l.length → (reportBytes ack l)[i]? = some (viewByte ack l i)

/-- `42_serialize.md` R136, injectivity: two different contexts give different byte strings. -/
def Obligations.DifferentContextsGiveDifferentBytes : Prop :=
  ∀ (ack ack' : SN) (l l' : List SN), reportBytes ack l = reportBytes ack' l' → ack = ack' ∧ l = l'

/-- `42_serialize.md` R134: `Capacity` and nothing written where the window is smaller than the report; else the
bytes of the report at offsets 0 to `size - 1`, every other offset as before, the context unchanged, `res = size`
(as far as it fits `res`). -/
def Obligations.SerializeWritesTheReportOrNothing : Prop :=
  ∀ (opa : Raw) (s : State),
    (opa < reportSize s.nack.length →
      exec (.srSerialize opa) s = .next { s with rsp := some ⟨.capacity, 0, 0⟩ }) ∧
    (Memory.wf s.obuf → reportSize s.nack.length ≤ opa → s.nack.length ≤ 1431655763 →
      ∃ (m : Memory) (v : Res),
        exec (.srSerialize opa) s = .next { s with obuf := m, rsp := some ⟨.ok, 0, v⟩ } ∧
          v = reportSize s.nack.length ∧
          (∀ a b, (reportBytes s.ackSn s.nack)[a]? = some b → Memory.read m a = b) ∧
          (∀ a, reportSize s.nack.length ≤ a → Memory.read m a = Memory.read s.obuf a))

/-! ## The decoder -/

/-- `43_deserialize.md` R145, R146: inside the window the reader gives the sum of the bits' weights, first bit
heaviest. A field that reaches past the window is never read (`20_memory.md` R43); that the bound check answers a
named fault there is the model's form of R43 (log entry 17). -/
def Obligations.BitReaderReadsMostSignificantFirst : Prop :=
  ∀ (m : Memory) (avail p n : Nat),
    (p + n ≤ 8 * avail → ∃ v, getBits m avail p n = .ok v ∧
      v.toNat = ∑ i ∈ Finset.range n, (streamBit m (p + i)).toNat * 2 ^ (n - 1 - i)) ∧
    (8 * avail < p + n → 0 < n → ∃ a, getBits m avail p n = .error (.ibufOutOfWindow a) ∧ avail ≤ a)

/-- `43_deserialize.md` R147, R152, R153: an acceptable report of `n` entries in the window replaces the context
by its fields, and `consumed` is its size; nothing else changes. -/
def Obligations.DeserializeCommitsAnAcceptedReport : Prop :=
  ∀ (opa : Raw) (s : State) (n : Nat), Accepts s.ibuf opa n → n ≤ 1431655763 → ∃ v : Res,
    v = reportSize n ∧ 2 ≤ reportSize n ∧ reportSize n ≤ opa ∧
    exec (.srDeserialize opa) s = .next { s with
      ackSn := windowAck s.ibuf
      nack := windowNacks s.ibuf n
      rsp := some ⟨.ok, 0, v⟩ }

/-- `43_deserialize.md` R150, R154, R155: every other input is `Malformed`, with no change: sub-cause CPT exactly
where two bytes are there and CPT is not 000, else TRUNC (R156). -/
def Obligations.DeserializeRejectsEveryOtherInput : Prop :=
  ∀ (opa : Raw) (s : State), (∀ n, ¬ Accepts s.ibuf opa n) →
    exec (.srDeserialize opa) s = .next { s with
      rsp := some ⟨.malformed, if 2 ≤ opa ∧ windowCpt s.ibuf ≠ 0 then 1 else 0, 0⟩ }

/-- `43_deserialize.md` R156, the checks of the prologue in order, for every configuration: length, then D/C if
`STRICT_DC`, then CPT; each ends the operation with no change. -/
def Obligations.PrologueChecksComeInOrder : Prop :=
  ∀ (c : Config) (opa : Raw) (s : State),
    (opa < 2 → deserialize c opa s = .next { s with rsp := some ⟨.malformed, 0, 0⟩ }) ∧
    (2 ≤ opa → c.strictDc = true → streamBit s.ibuf 0 = true →
      deserialize c opa s = .next { s with rsp := some ⟨.malformed, 2, 0⟩ }) ∧
    (2 ≤ opa → (c.strictDc = false ∨ streamBit s.ibuf 0 = false) → windowCpt s.ibuf ≠ 0 →
      deserialize c opa s = .next { s with rsp := some ⟨.malformed, 1, 0⟩ })

/-- `60_exceptions.md` R169: with a finite `NACK_DEPTH`, an input that passes the checks of the prologue (under
`STRICT_DC` also D/C = 0) and announces one more entry than the depth, with room for it, is answered `Full`, and
nothing changes. -/
def Obligations.DeserializeBeyondTheDepthIsFull : Prop :=
  ∀ (c : Config) (opa : Raw) (s : State) (depth : Nat), c.nackDepth = some depth →
    (c.strictDc = false ∨ streamBit s.ibuf 0 = false) →
    windowCpt s.ibuf = 0 → 15 + 12 * (depth + 1) ≤ 8 * opa → streamBit s.ibuf 14 = true →
    (∀ k, k < depth → streamBit s.ibuf (25 + 12 * k) = true) →
      deserialize c opa s = .next { s with rsp := some ⟨.full, 0, 0⟩ }

/-- `43_deserialize.md` R155, round trip: what `SR.SERIALIZE` wrote, read back by `SR.DESERIALIZE` from any context
in a window at least as long, gives the same context, and `consumed` is the size. -/
def Obligations.DeserializeOfSerializeIsTheContext : Prop :=
  ∀ (cap avail : Raw) (s t u : State), Memory.wf s.obuf → s.nack.length ≤ 1431655763 →
    reportSize s.nack.length ≤ cap → exec (.srSerialize cap) s = .next t →
    reportSize s.nack.length ≤ avail →
    (∀ a, a < reportSize s.nack.length → Memory.read u.ibuf a = Memory.read t.obuf a) →
      ∃ v : Res, v = reportSize s.nack.length ∧
        exec (.srDeserialize avail) u =
          .next { u with ackSn := s.ackSn, nack := s.nack, rsp := some ⟨.ok, 0, v⟩ }

/-- `43_deserialize.md` R150, consequence: every proper prefix of a report is rejected `Malformed(TRUNC)`, with no
change. -/
def Obligations.EveryTruncatedReportIsRejected : Prop :=
  ∀ (ack : SN) (l : List SN) (opa : Raw) (s : State), opa < reportSize l.length →
    (∀ a, a < opa → (reportBytes ack l)[a]? = some (Memory.read s.ibuf a)) →
      exec (.srDeserialize opa) s = .next { s with rsp := some ⟨.malformed, 0, 0⟩ }

/-- `43_deserialize.md` R148, R151, R152 and `30_encoding.md` R66: D/C, every E2, the padding and everything behind
it do not matter: windows that agree on all other bits of an acceptable report decode to the same context and
response. -/
def Obligations.IgnoredBitsDoNotMatter : Prop :=
  ∀ (opa : Raw) (s t : State) (n : Nat) (m : Memory), Accepts s.ibuf opa n →
    (∀ p, 0 < p → p < 15 + 12 * n → (∀ k, k < n → p ≠ 26 + 12 * k) → streamBit m p = streamBit s.ibuf p) →
    exec (.srDeserialize opa) s = .next t →
      exec (.srDeserialize opa) { s with ibuf := m } = .next { t with ibuf := m }

/-- `20_memory.md` R41, R43: no byte at an offset not below `avail` enters the outcome, on any path. -/
def Obligations.DeserializeReadsOnlyItsWindow : Prop :=
  ∀ (opa : Raw) (s t : State) (m : Memory),
    (∀ a, a < opa → Memory.read m a = Memory.read s.ibuf a) → exec (.srDeserialize opa) s = .next t →
      exec (.srDeserialize opa) { s with ibuf := m } = .next { t with ibuf := m }

/-- The model's choice for a result that does not fit `RES_W` (log entry 11): the operation completes OK with every
other effect, and `res` is some value. -/
def Obligations.ResultsTooWideStillComplete : Prop :=
  ∀ (opa : Raw) (s : State) (n : Nat), 1431655763 < n →
    (s.nack.length = n → ∃ v : Res,
      exec .srGetsize s = .next { s with rsp := some ⟨.ok, 0, v⟩, draws := s.draws + 1 }) ∧
    (s.nack.length = n → reportSize n ≤ opa → Memory.wf s.obuf → ∃ (m : Memory) (v : Res),
      exec (.srSerialize opa) s = .next { s with obuf := m, rsp := some ⟨.ok, 0, v⟩, draws := s.draws + 1 } ∧
        (∀ a b, (reportBytes s.ackSn s.nack)[a]? = some b → Memory.read m a = b) ∧
        (∀ a, reportSize n ≤ a → Memory.read m a = Memory.read s.obuf a)) ∧
    (Accepts s.ibuf opa n → ∃ v : Res, exec (.srDeserialize opa) s = .next { s with
      ackSn := windowAck s.ibuf
      nack := windowNacks s.ibuf n
      rsp := some ⟨.ok, 0, v⟩
      draws := s.draws + 1 })

/-! ## Wire elements, one a step (the model's choice, log entry 3) -/

/-- `STATUS.PROLOGUE`: with CPT = 000 the shadow is the one of `43_deserialize.md` R147 behind the prologue (D/C
not acted on, R148); else `Malformed(CPT)` (R149) and no shadow. The context does not change. -/
def Obligations.PrologueElementStartsTheShadow : Prop :=
  ∀ (dc : Flag) (cpt : BitVec 3) (ack : SN) (e1 : Flag) (s : State),
    (cpt = 0 → exec (.statusPrologue dc cpt ack e1) s =
      .next { s with shadow := some ⟨15, ack, e1, []⟩, rsp := none }) ∧
    (cpt ≠ 0 → exec (.statusPrologue dc cpt ack e1) s =
      .next { s with shadow := none, rsp := some ⟨.malformed, 1, 0⟩ })

/-- `STATUS.NACK_ENTRY`: an announced entry is appended to the shadow, E2 without effect (`43_deserialize.md` R147,
R151); one that no E1 announces is not read. -/
def Obligations.EntryElementExtendsTheShadow : Prop :=
  ∀ (sn : SN) (e1 e2 : Flag) (s : State),
    (∀ pos ack l, s.shadow = some ⟨pos, ack, 1, l⟩ → exec (.statusNackEntry sn e1 e2) s =
      .next { s with shadow := some ⟨pos + 12, ack, e1, l ++ [sn]⟩, rsp := none }) ∧
    (s.shadow = none ∨ (∃ pos ack l, s.shadow = some ⟨pos, ack, 0, l⟩) →
      exec (.statusNackEntry sn e1 e2) s = .next { s with rsp := none })

/-- `STATUS.PADDING`: behind the last entry the report is committed and `consumed` answered (`43_deserialize.md`
R152, R153); where an entry is still announced the input is truncated (R150) and the context unchanged. -/
def Obligations.PaddingElementEndsTheReport : Prop :=
  ∀ (p : PadBits) (s : State),
    (∀ ack l, s.shadow = some ⟨15 + 12 * l.length, ack, 0, l⟩ → l.length ≤ 1431655763 → ∃ v : Res,
      v = reportSize l.length ∧ exec (.statusPadding p) s =
        .next { s with ackSn := ack, nack := l, shadow := none, rsp := some ⟨.ok, 0, v⟩ }) ∧
    (∀ pos ack l, s.shadow = some ⟨pos, ack, 1, l⟩ → exec (.statusPadding p) s =
      .next { s with shadow := none, rsp := some ⟨.malformed, 0, 0⟩ }) ∧
    (s.shadow = none → exec (.statusPadding p) s = .next { s with rsp := none })

/-- Reading an acceptable report element by element is `SR.DESERIALIZE`: from a state with no decoding in progress,
the words of the report in the window, presented one a step, end in the very state that the operation answers. -/
def Obligations.ElementByElementIsDeserialize : Prop :=
  ∀ (opa : Raw) (s : State) (n : Nat), s.shadow = none → Accepts s.ibuf opa n →
    ∃ t, runWords (windowWords s.ibuf n) s = some t ∧ exec (.srDeserialize opa) s = .next t

/-! ## The whole machine -/

/-- `60_exceptions.md` R165, `10_state.md` R29, R32: a response that is not OK comes with `res` = 0 and with no
other effect; `info` is 0 unless it is `MALFORMED`. (A wire element that fails ends the decoding in progress.) -/
def Obligations.FailuresLeaveNoTrace : Prop :=
  ∀ (i : Instr) (s t : State) (r : Response), exec i s = .next t → t.rsp = some r → r.status ≠ .ok →
    r.res = 0 ∧ (r.status ≠ .malformed → r.info = 0) ∧ t = { s with shadow := t.shadow, rsp := some r } ∧
      (isCommand i = true → t.shadow = s.shadow)

/-- `30_encoding.md` R73: every operation ends with exactly one response, of the form the rule gives. -/
def Obligations.EveryOperationResponds : Prop :=
  ∀ (i : Instr) (s : State), isCommand i = true → ∃ t r, exec i s = .next t ∧ t.rsp = some r ∧
    r.status.code.toNat ≤ 4 ∧ (r.status ≠ .ok → r.res = 0) ∧ (r.status ≠ .malformed → r.info = 0) ∧
    (r.status = .malformed → r.info = 0 ∨ r.info = 1)

/-- `60_exceptions.md` R170: with the FIFO unbounded, twelve operations can never fail. -/
def Obligations.TwelveOperationsNeverFail : Prop :=
  ∀ (opa : Raw) (opb : SN) (s : State) (i : Instr),
    i ∈ [.snConstruct opa, .snValue opa, .snEquals opa opb, .snInc opa, .snCmp opa opb, .srClear, .srSetack opa,
      .srGetack, .srPushnack opa, .srPopnack, .srGetsize, .srPrint] →
      ∃ t r, exec i s = .next t ∧ t.rsp = some r ∧ r.status = .ok

/-- Who writes what (`10_state.md` R20, R21; `20_memory.md` R40, R41; `41_report_access.md` R116), over all
instructions; the padding element stands beside `SR.DESERIALIZE` where it commits (log entry 3). -/
def Obligations.OnlyTheListedOperationsWriteEachState : Prop :=
  ∀ (i : Instr) (s t : State), exec i s = .next t →
    (t.ackSn ≠ s.ackSn → i = .srClear ∨ (∃ a, i = .srSetack a) ∨ (∃ a, i = .srDeserialize a) ∨
      ∃ p, i = .statusPadding p) ∧
    (t.nack ≠ s.nack → i = .srClear ∨ (∃ a, i = .srPushnack a) ∨ i = .srPopnack ∨ (∃ a, i = .srDeserialize a) ∨
      ∃ p, i = .statusPadding p) ∧
    (t.obuf ≠ s.obuf → ∃ a, i = .srSerialize a) ∧ t.ibuf = s.ibuf ∧ (t.sink ≠ s.sink → i = .srPrint) ∧
    (t.shadow ≠ s.shadow → isCommand i = false) ∧ t.inputs = s.inputs

/-- Contexts are independent (`10_state.md` R33), for every configuration and every `N_CTX`: an operation on one
context of a block completes, does in it what it does in a block of that context alone, leaves every other context
as it was, and does the same whatever the other contexts hold. (The shadow of a reception of wire elements goes with
its context: log entries 3, 9.) -/
def Obligations.ContextsAreIndependent : Prop :=
  ∀ (c : Config) (k : Fin c.nCtx) (i : Instr) (b b' : Bank c.nCtx), b'.contexts[k] = b.contexts[k] →
    (∀ x, b'.block.withContext x = b.block.withContext x) → ∃ (t : State) (d d' : Bank c.nCtx),
      execIn c i (b.block.withContext b.contexts[k]) = .next t ∧
      execAt c k i b = .next d ∧ d.block = t ∧ d.contexts[k] = t.context ∧
      (∀ j : Fin c.nCtx, j ≠ k → d.contexts[j] = b.contexts[j]) ∧
      execAt c k i b' = .next d' ∧ d'.block = d.block ∧ d'.contexts[k] = d.contexts[k]
end

