-- ==== Sys2Proof/Laws/State.lean ====
section
/-! SUPPORT. One lemma per field per update, so that no proof unfolds a record update. -/

namespace Sys2Proof.Machine

@[simp] theorem respond_ackSn (v : Res) (s : State) : (respond v s).ackSn = s.ackSn := rfl
@[simp] theorem respond_nack (v : Res) (s : State) : (respond v s).nack = s.nack := rfl
@[simp] theorem respond_shadow (v : Res) (s : State) : (respond v s).shadow = s.shadow := rfl
@[simp] theorem respond_ibuf (v : Res) (s : State) : (respond v s).ibuf = s.ibuf := rfl
@[simp] theorem respond_obuf (v : Res) (s : State) : (respond v s).obuf = s.obuf := rfl
@[simp] theorem respond_rsp (v : Res) (s : State) : (respond v s).rsp = some ⟨.ok, 0, v⟩ := rfl
@[simp] theorem respond_sink (v : Res) (s : State) : (respond v s).sink = s.sink := rfl
@[simp] theorem respond_inputs (v : Res) (s : State) : (respond v s).inputs = s.inputs := rfl
@[simp] theorem respond_draws (v : Res) (s : State) : (respond v s).draws = s.draws := rfl

@[simp] theorem raise_ackSn (f : Failure) (s : State) : (raise f s).ackSn = s.ackSn := rfl
@[simp] theorem raise_nack (f : Failure) (s : State) : (raise f s).nack = s.nack := rfl
@[simp] theorem raise_shadow (f : Failure) (s : State) : (raise f s).shadow = s.shadow := rfl
@[simp] theorem raise_ibuf (f : Failure) (s : State) : (raise f s).ibuf = s.ibuf := rfl
@[simp] theorem raise_obuf (f : Failure) (s : State) : (raise f s).obuf = s.obuf := rfl
@[simp] theorem raise_rsp (f : Failure) (s : State) : (raise f s).rsp = some ⟨f.status, f.info, 0⟩ := rfl
@[simp] theorem raise_sink (f : Failure) (s : State) : (raise f s).sink = s.sink := rfl
@[simp] theorem raise_inputs (f : Failure) (s : State) : (raise f s).inputs = s.inputs := rfl
@[simp] theorem raise_draws (f : Failure) (s : State) : (raise f s).draws = s.draws := rfl

@[simp] theorem noResponse_ackSn (s : State) : (noResponse s).ackSn = s.ackSn := rfl
@[simp] theorem noResponse_nack (s : State) : (noResponse s).nack = s.nack := rfl
@[simp] theorem noResponse_shadow (s : State) : (noResponse s).shadow = s.shadow := rfl
@[simp] theorem noResponse_ibuf (s : State) : (noResponse s).ibuf = s.ibuf := rfl
@[simp] theorem noResponse_obuf (s : State) : (noResponse s).obuf = s.obuf := rfl
@[simp] theorem noResponse_rsp (s : State) : (noResponse s).rsp = none := rfl
@[simp] theorem noResponse_sink (s : State) : (noResponse s).sink = s.sink := rfl
@[simp] theorem noResponse_inputs (s : State) : (noResponse s).inputs = s.inputs := rfl
@[simp] theorem noResponse_draws (s : State) : (noResponse s).draws = s.draws := rfl

@[simp] theorem clearContext_ackSn (c : Config) (s : State) : (clearContext c s).ackSn = c.ackReset := rfl
@[simp] theorem clearContext_nack (c : Config) (s : State) : (clearContext c s).nack = [] := rfl
@[simp] theorem clearContext_shadow (c : Config) (s : State) : (clearContext c s).shadow = s.shadow := rfl
@[simp] theorem clearContext_ibuf (c : Config) (s : State) : (clearContext c s).ibuf = s.ibuf := rfl
@[simp] theorem clearContext_obuf (c : Config) (s : State) : (clearContext c s).obuf = s.obuf := rfl
@[simp] theorem clearContext_rsp (c : Config) (s : State) : (clearContext c s).rsp = s.rsp := rfl
@[simp] theorem clearContext_sink (c : Config) (s : State) : (clearContext c s).sink = s.sink := rfl
@[simp] theorem clearContext_inputs (c : Config) (s : State) : (clearContext c s).inputs = s.inputs := rfl
@[simp] theorem clearContext_draws (c : Config) (s : State) : (clearContext c s).draws = s.draws := rfl

@[simp] theorem setContext_ackSn (ack : SN) (nack : List SN) (s : State) : (setContext ack nack s).ackSn = ack := rfl
@[simp] theorem setContext_nack (ack : SN) (nack : List SN) (s : State) : (setContext ack nack s).nack = nack := rfl
@[simp] theorem setContext_shadow (ack : SN) (nack : List SN) (s : State) : (setContext ack nack s).shadow = s.shadow := rfl
@[simp] theorem setContext_ibuf (ack : SN) (nack : List SN) (s : State) : (setContext ack nack s).ibuf = s.ibuf := rfl
@[simp] theorem setContext_obuf (ack : SN) (nack : List SN) (s : State) : (setContext ack nack s).obuf = s.obuf := rfl
@[simp] theorem setContext_rsp (ack : SN) (nack : List SN) (s : State) : (setContext ack nack s).rsp = s.rsp := rfl
@[simp] theorem setContext_sink (ack : SN) (nack : List SN) (s : State) : (setContext ack nack s).sink = s.sink := rfl
@[simp] theorem setContext_inputs (ack : SN) (nack : List SN) (s : State) : (setContext ack nack s).inputs = s.inputs := rfl
@[simp] theorem setContext_draws (ack : SN) (nack : List SN) (s : State) : (setContext ack nack s).draws = s.draws := rfl

@[simp] theorem resetBlock_ackSn (c : Config) (s : State) : (resetBlock c s).ackSn = c.ackReset := rfl
@[simp] theorem resetBlock_nack (c : Config) (s : State) : (resetBlock c s).nack = [] := rfl
@[simp] theorem resetBlock_shadow (c : Config) (s : State) : (resetBlock c s).shadow = none := rfl
@[simp] theorem resetBlock_ibuf (c : Config) (s : State) : (resetBlock c s).ibuf = s.ibuf := rfl
@[simp] theorem resetBlock_obuf (c : Config) (s : State) : (resetBlock c s).obuf = s.obuf := rfl
@[simp] theorem resetBlock_rsp (c : Config) (s : State) : (resetBlock c s).rsp = none := rfl
@[simp] theorem resetBlock_sink (c : Config) (s : State) : (resetBlock c s).sink = s.sink := rfl
@[simp] theorem resetBlock_inputs (c : Config) (s : State) : (resetBlock c s).inputs = s.inputs := rfl
@[simp] theorem resetBlock_draws (c : Config) (s : State) : (resetBlock c s).draws = s.draws := rfl

/-- `respondNat` where the result fits. -/
theorem respondNat_of_lt {c : Config} {n : Nat} (h : n < 2 ^ (c.resW - 1)) (s : State) :
    respondNat c n s = respond n s := by
  simp only [respondNat, if_pos h]

/-- `respondNat` where the result does not fit: a free value, and the draw counted. -/
theorem respondNat_of_ge {c : Config} {n : Nat} (h : ¬ n < 2 ^ (c.resW - 1)) (s : State) :
    respondNat c n s = respond (Config.wideResult c.resW s.draws n).toInt { s with draws := s.draws + 1 } := by
  simp only [respondNat, if_neg h]

/-- Whatever it answers, `respondNat` responds OK. -/
theorem respondNat_rsp (c : Config) (n : Nat) (s : State) : ∃ v, (respondNat c n s).rsp = some ⟨.ok, 0, v⟩ := by
  unfold respondNat
  split <;> exact ⟨_, rfl⟩

@[simp] theorem respondNat_ackSn (c : Config) (n : Nat) (s : State) : (respondNat c n s).ackSn = s.ackSn := by
  unfold respondNat; split <;> rfl
@[simp] theorem respondNat_nack (c : Config) (n : Nat) (s : State) : (respondNat c n s).nack = s.nack := by
  unfold respondNat; split <;> rfl
@[simp] theorem respondNat_shadow (c : Config) (n : Nat) (s : State) : (respondNat c n s).shadow = s.shadow := by
  unfold respondNat; split <;> rfl
@[simp] theorem respondNat_ibuf (c : Config) (n : Nat) (s : State) : (respondNat c n s).ibuf = s.ibuf := by
  unfold respondNat; split <;> rfl
@[simp] theorem respondNat_obuf (c : Config) (n : Nat) (s : State) : (respondNat c n s).obuf = s.obuf := by
  unfold respondNat; split <;> rfl
@[simp] theorem respondNat_sink (c : Config) (n : Nat) (s : State) : (respondNat c n s).sink = s.sink := by
  unfold respondNat; split <;> rfl
@[simp] theorem respondNat_inputs (c : Config) (n : Nat) (s : State) : (respondNat c n s).inputs = s.inputs := by
  unfold respondNat; split <;> rfl

@[simp] theorem commit_ackSn (c : Config) (sh : Shadow) (s : State) : (commit c sh s).ackSn = sh.ack := by
  simp [commit]
@[simp] theorem commit_nack (c : Config) (sh : Shadow) (s : State) : (commit c sh s).nack = sh.nack := by
  simp [commit]
@[simp] theorem commit_shadow (c : Config) (sh : Shadow) (s : State) : (commit c sh s).shadow = s.shadow := by
  simp [commit]
@[simp] theorem commit_ibuf (c : Config) (sh : Shadow) (s : State) : (commit c sh s).ibuf = s.ibuf := by
  simp [commit]
@[simp] theorem commit_obuf (c : Config) (sh : Shadow) (s : State) : (commit c sh s).obuf = s.obuf := by
  simp [commit]
@[simp] theorem commit_sink (c : Config) (sh : Shadow) (s : State) : (commit c sh s).sink = s.sink := by
  simp [commit]
@[simp] theorem commit_inputs (c : Config) (sh : Shadow) (s : State) : (commit c sh s).inputs = s.inputs := by
  simp [commit]

@[simp] theorem withContext_ackSn (s : State) (x : Context) : (s.withContext x).ackSn = x.ackSn := rfl
@[simp] theorem withContext_nack (s : State) (x : Context) : (s.withContext x).nack = x.nack := rfl
@[simp] theorem withContext_shadow (s : State) (x : Context) : (s.withContext x).shadow = x.shadow := rfl
@[simp] theorem withContext_ibuf (s : State) (x : Context) : (s.withContext x).ibuf = s.ibuf := rfl
@[simp] theorem withContext_obuf (s : State) (x : Context) : (s.withContext x).obuf = s.obuf := rfl
@[simp] theorem withContext_rsp (s : State) (x : Context) : (s.withContext x).rsp = s.rsp := rfl
@[simp] theorem withContext_sink (s : State) (x : Context) : (s.withContext x).sink = s.sink := rfl
@[simp] theorem withContext_inputs (s : State) (x : Context) : (s.withContext x).inputs = s.inputs := rfl
@[simp] theorem withContext_draws (s : State) (x : Context) : (s.withContext x).draws = s.draws := rfl
@[simp] theorem withContext_context (s : State) (x : Context) : (s.withContext x).context = x := rfl
@[simp] theorem withContext_withContext (s : State) (x y : Context) :
    (s.withContext x).withContext y = s.withContext y := rfl

@[simp] theorem Shadow.start_pos (ack : SN) (e1 : Flag) : (Shadow.start ack e1).pos = 15 := rfl
@[simp] theorem Shadow.start_ack (ack : SN) (e1 : Flag) : (Shadow.start ack e1).ack = ack := rfl
@[simp] theorem Shadow.start_e1 (ack : SN) (e1 : Flag) : (Shadow.start ack e1).e1 = e1 := rfl
@[simp] theorem Shadow.start_nack (ack : SN) (e1 : Flag) : (Shadow.start ack e1).nack = [] := rfl
@[simp] theorem Shadow.push_pos (sh : Shadow) (sn : SN) (e1 : Flag) : (sh.push sn e1).pos = sh.pos + 12 := rfl
@[simp] theorem Shadow.push_ack (sh : Shadow) (sn : SN) (e1 : Flag) : (sh.push sn e1).ack = sh.ack := rfl
@[simp] theorem Shadow.push_e1 (sh : Shadow) (sn : SN) (e1 : Flag) : (sh.push sn e1).e1 = e1 := rfl
@[simp] theorem Shadow.push_nack (sh : Shadow) (sn : SN) (e1 : Flag) : (sh.push sn e1).nack = sh.nack ++ [sn] := rfl

end Sys2Proof.Machine
end

