-- ==== Sys2Proof/Laws/Memory.lean ====
section
/-! SUPPORT. The laws of the byte windows: a read after a write, the canonical form kept, a run of writes. -/

namespace Sys2Proof.Machine

@[simp] theorem Memory.read_nil (a : Nat) : Memory.read [] a = Memory.unlisted := rfl

/-- An offset below every listed one reads as unlisted. -/
theorem Memory.read_of_lt {m : Memory} {a : Nat} (h : ∀ c ∈ m, a < c.1) : Memory.read m a = Memory.unlisted := by
  induction m with
  | nil => rfl
  | cons c rest ih =>
    obtain ⟨b, v⟩ := c
    have hb : a < b := h (b, v) (by simp)
    rw [Memory.read, if_neg (by omega)]
    exact ih fun c hc => h c (by simp [hc])

/-- Reading behind an entry put in front of a window that lists nothing at its offset. -/
theorem Memory.read_put {m : Memory} {a : Nat} (v : Byte) (x : Nat) (h : Memory.read m a = Memory.unlisted) :
    Memory.read (Memory.put a v m) x = if x = a then v else Memory.read m x := by
  unfold Memory.put
  by_cases hx : x = a
  · subst hx
    by_cases hv : v = Memory.unlisted
    · simp [hv, h]
    · simp [hv, Memory.read]
  · by_cases hv : v = Memory.unlisted
    · simp [hv, hx]
    · simp [hv, Memory.read, hx, Ne.symm hx]

/-- A read after a write, in a canonical window. -/
theorem Memory.read_write {m : Memory} (hm : Memory.wf m) (a : Nat) (v : Byte) (x : Nat) :
    Memory.read (Memory.write m a v) x = if x = a then v else Memory.read m x := by
  induction m with
  | nil => exact Memory.read_put v x rfl
  | cons c rest ih =>
    obtain ⟨b, w⟩ := c
    obtain ⟨hp, hu⟩ := hm
    rw [List.pairwise_cons] at hp
    unfold Memory.write
    split
    · rename_i hab
      refine Memory.read_put v x (Memory.read_of_lt fun c hc => ?_)
      rcases List.mem_cons.1 hc with rfl | hc
      · exact hab
      · exact lt_trans hab (hp.1 c hc)
    · rename_i hab
      split
      · rename_i hEq
        subst hEq
        rw [Memory.read_put v x (Memory.read_of_lt fun c hc => hp.1 c hc)]
        by_cases hx : x = a
        · simp [hx]
        · simp [hx, Memory.read, Ne.symm hx]
      · rename_i hne
        rw [Memory.read, Memory.read]
        by_cases hbx : b = x
        · subst hbx
          simp [Ne.symm hne]
        · rw [if_neg hbx, if_neg hbx]
          exact ih ⟨hp.2, fun c hc => hu c (by simp [hc])⟩

/-- Every entry of a written window is an old one or the written one. -/
theorem Memory.mem_write {m : Memory} {a : Nat} {v : Byte} {c : Host.Cell} (h : c ∈ Memory.write m a v) :
    c ∈ m ∨ (c = (a, v) ∧ v ≠ Memory.unlisted) := by
  have hput : ∀ m' : Memory, c ∈ Memory.put a v m' → c ∈ m' ∨ (c = (a, v) ∧ v ≠ Memory.unlisted) := by
    intro m' hc
    unfold Memory.put at hc
    split at hc
    · exact .inl hc
    · rcases List.mem_cons.1 hc with rfl | hc
      · exact .inr ⟨rfl, ‹_›⟩
      · exact .inl hc
  induction m with
  | nil => exact hput [] h
  | cons d rest ih =>
    obtain ⟨b, w⟩ := d
    unfold Memory.write at h
    split at h
    · exact hput _ h
    · split at h
      · rcases hput _ h with h | h
        · exact .inl (by simp [h])
        · exact .inr h
      · rcases List.mem_cons.1 h with rfl | h
        · exact .inl (by simp)
        · rcases ih h with h | h
          · exact .inl (by simp [h])
          · exact .inr h

/-- A write keeps the canonical form. -/
theorem Memory.write_wf {m : Memory} (hm : Memory.wf m) (a : Nat) (v : Byte) : Memory.wf (Memory.write m a v) := by
  constructor
  · obtain ⟨hp, hu⟩ := hm
    have hput : ∀ m' : Memory, m'.Pairwise (fun x y => x.1 < y.1) → (∀ c ∈ m', a < c.1) →
        (Memory.put a v m').Pairwise (fun x y => x.1 < y.1) := by
      intro m' h1 h2
      unfold Memory.put
      split
      · exact h1
      · exact List.pairwise_cons.2 ⟨fun c hc => h2 c hc, h1⟩
    induction m with
    | nil => exact hput [] .nil (by simp)
    | cons d rest ih =>
      obtain ⟨b, w⟩ := d
      have hp' := List.pairwise_cons.1 hp
      unfold Memory.write
      split
      · rename_i hab
        refine hput _ hp fun c hc => ?_
        rcases List.mem_cons.1 hc with rfl | hc
        · exact hab
        · exact lt_trans hab (hp'.1 c hc)
      · split
        · rename_i _ hEq
          subst hEq
          exact hput _ hp'.2 fun c hc => hp'.1 c hc
        · rename_i hab hne
          refine List.pairwise_cons.2 ⟨fun c hc => ?_, ih hp'.2 fun c hc => hu c (by simp [hc])⟩
          rcases Memory.mem_write hc with hc | ⟨rfl, _⟩
          · exact hp'.1 c hc
          · show b < a
            omega
  · intro c hc
    rcases Memory.mem_write hc with hc | ⟨rfl, hv⟩
    · exact hm.2 c hc
    · exact hv

/-- A run of writes keeps the canonical form. -/
theorem Memory.writeAll_wf {m : Memory} (hm : Memory.wf m) (a : Nat) (bytes : List Byte) :
    Memory.wf (Memory.writeAll m a bytes) := by
  induction bytes generalizing m a with
  | nil => exact hm
  | cons v rest ih => exact ih (Memory.write_wf hm a v) (a + 1)

theorem Memory.wf_nil : Memory.wf [] := ⟨.nil, by simp⟩

/-- A window lent with its contents is canonical. -/
theorem Memory.ofBytes_wf (bytes : List Byte) : Memory.wf (Memory.ofBytes bytes) :=
  Memory.writeAll_wf Memory.wf_nil 0 bytes

/-- A read after a run of writes: the written byte inside the run, the old one outside. -/
theorem Memory.read_writeAll {m : Memory} (hm : Memory.wf m) (a : Nat) (bytes : List Byte) (x : Nat) :
    Memory.read (Memory.writeAll m a bytes) x =
      if a ≤ x ∧ x < a + bytes.length then bytes.getD (x - a) 0 else Memory.read m x := by
  induction bytes generalizing m a with
  | nil =>
    have : ¬ (a ≤ x ∧ x < a) := by omega
    simp [Memory.writeAll, this]
  | cons v rest ih =>
    rw [Memory.writeAll, ih (Memory.write_wf hm a v), Memory.read_write hm]
    rcases lt_trichotomy x a with hx | rfl | hx
    · rw [if_neg (by omega), if_neg (by omega), if_neg (by simp; omega)]
    · simp
    · have hne : x ≠ a := by omega
      have hs : x - a = x - (a + 1) + 1 := by omega
      by_cases hin : x < a + 1 + rest.length
      · rw [if_pos ⟨by omega, hin⟩, if_pos ⟨by omega, by simp; omega⟩, hs]
        rfl
      · rw [if_neg (by omega), if_neg hne, if_neg (by simp; omega)]

/-- A run of some of the writes keeps the canonical form. -/
theorem Memory.writeSome_wf {m : Memory} (hm : Memory.wf m) (chosen : Nat → Bool) (a : Nat) (bytes : List Byte) :
    Memory.wf (Memory.writeSome chosen m a bytes) := by
  induction bytes generalizing m a with
  | nil => exact hm
  | cons v rest ih =>
    refine ih ?_ (a + 1)
    split
    · exact Memory.write_wf hm a v
    · exact hm

/-- A read after a run of some of the writes: the written byte where it was chosen, else the old one. -/
theorem Memory.read_writeSome {m : Memory} (hm : Memory.wf m) (chosen : Nat → Bool) (a : Nat) (bytes : List Byte)
    (x : Nat) :
    Memory.read (Memory.writeSome chosen m a bytes) x =
      if a ≤ x ∧ x < a + bytes.length ∧ chosen x = true then bytes.getD (x - a) 0 else Memory.read m x := by
  induction bytes generalizing m a with
  | nil =>
    have : ¬ (a ≤ x ∧ x < a ∧ chosen x = true) := by omega
    simp [Memory.writeSome, this]
  | cons v rest ih =>
    have hw : Memory.wf (if chosen a then Memory.write m a v else m) := by
      split
      · exact Memory.write_wf hm a v
      · exact hm
    have hr : Memory.read (if chosen a then Memory.write m a v else m) x =
        if x = a ∧ chosen a = true then v else Memory.read m x := by
      by_cases hc : chosen a = true <;> simp [hc, Memory.read_write hm]
    rw [Memory.writeSome, ih hw, hr]
    rcases lt_trichotomy x a with hx | rfl | hx
    · rw [if_neg (by omega), if_neg (by omega), if_neg (by simp; omega)]
    · by_cases hc : chosen x = true <;> simp [hc]
    · have hs : x - a = x - (a + 1) + 1 := by omega
      by_cases hin : x < a + 1 + rest.length ∧ chosen x = true
      · rw [if_pos ⟨by omega, hin⟩, if_pos ⟨by omega, by simp; omega, hin.2⟩, hs]
        rfl
      · rw [if_neg fun h => hin h.2, if_neg fun h => by omega, if_neg fun h => hin ⟨?_, h.2.2⟩]
        have := h.2.1
        simp at this
        omega

/-- Lent bytes read back. -/
theorem Memory.read_ofBytes (bytes : List Byte) (x : Nat) :
    Memory.read (Memory.ofBytes bytes) x = bytes.getD x 0 := by
  rw [Memory.ofBytes, Memory.read_writeAll Memory.wf_nil]
  by_cases h : x < bytes.length
  · simp [h]
  · simp [h, Memory.unlisted]

/-- Inside the window a run of `MemWrite`s is a run of writes: no bound check fails. -/
theorem memWriteAll_of_le {cap a : Nat} {bytes : List Byte} (obuf : Memory) (h : a + bytes.length ≤ cap) :
    memWriteAll cap a bytes obuf = .ok (Memory.writeAll obuf a bytes) := by
  induction bytes generalizing obuf a with
  | nil => rfl
  | cons v rest ih =>
    simp only [List.length_cons] at h
    rw [memWriteAll, memWrite, if_pos (by omega)]
    exact ih _ (by omega)

end Sys2Proof.Machine
end

