-- ==== Sys2Proof/Laws/Wire.lean ====
section
/-! SUPPORT. The laws of the bit stream: sizes, the bits of a field and the field of a stream, and the bit reader,
which reads the stream wherever the window has the bits. -/

namespace Sys2Proof.Machine

@[simp] theorem fieldBits_length {n : Nat} (v : BitVec n) : (fieldBits v).length = n := by simp [fieldBits]

/-- Bit `i` of a field's bits is bit `i` of the field from its most significant end. -/
theorem fieldBits_getD {n : Nat} (v : BitVec n) (i : Nat) : (fieldBits v).getD i false = v.getMsbD i := by
  by_cases h : i < n
  · simp [fieldBits, List.getD_eq_getElem?_getD, h]
  · rw [List.getD_eq_default _ _ (by simpa using h)]
    simp [BitVec.getMsbD, h]

/-- The most significant bit first: a bit put in front of a field. -/
theorem getMsbD_cons_bit {n : Nat} (b : Bool) (v : BitVec n) (i : Nat) :
    (BitVec.cons b v).getMsbD i = if i = 0 then b else v.getMsbD (i - 1) := by
  unfold BitVec.getMsbD
  rw [BitVec.getLsbD_cons]
  rcases i with _ | i
  · simp
  · by_cases h : i < n
    · have h1 : n + 1 - 1 - (i + 1) ≠ n := by omega
      have h2 : n + 1 - 1 - (i + 1) = n - 1 - i := by omega
      rw [h2] at h1 ⊢
      simp only [h1, if_false, Nat.add_sub_cancel, h, Nat.add_lt_add_iff_right, decide_true, Bool.true_and]
      simp
    · simp [h]

/-- Bit `i` of the field at `p`, from its most significant end, is stream bit `p + i` (`00_scope.md` R8). -/
theorem streamField_getMsbD (stream : Nat → Bool) (p n i : Nat) :
    (streamField stream p n).getMsbD i = (decide (i < n) && stream (p + i)) := by
  induction n generalizing p i with
  | zero => simp [streamField, BitVec.getMsbD]
  | succ n ih =>
    rw [streamField, getMsbD_cons_bit]
    cases i with
    | zero => simp
    | succ i =>
      rw [if_neg (by omega), Nat.add_sub_cancel, ih]
      simp [Nat.add_assoc, Nat.add_comm 1 i]

/-- A field is what the stream holds of it. -/
theorem streamField_eq {n : Nat} {stream : Nat → Bool} {p : Nat} {v : BitVec n}
    (h : ∀ i, i < n → stream (p + i) = v.getMsbD i) : streamField stream p n = v := by
  apply BitVec.eq_of_getMsbD_eq
  intro i hi
  rw [streamField_getMsbD]
  simp [hi, h i hi]

/-- Two streams that agree on a field's bits hold the same field. -/
theorem streamField_congr {n p q : Nat} {s t : Nat → Bool} (h : ∀ i, i < n → s (p + i) = t (q + i)) :
    streamField s p n = streamField t q n := by
  apply streamField_eq
  intro i hi
  rw [streamField_getMsbD]
  simp [hi, h i hi]

/-- `30_encoding.md` R62: the size is the least number of bytes that hold the bits. -/
theorem reportSize_bounds (n : Nat) : 15 + 12 * n ≤ 8 * reportSize n ∧ 8 * reportSize n ≤ 22 + 12 * n := by
  unfold reportSize
  omega

@[simp] theorem reportBytes_length (ack : SN) (l : List SN) : (reportBytes ack l).length = reportSize l.length := by
  simp [reportBytes]

@[simp] theorem entriesBits_length (l : List SN) : (entriesBits l).length = 12 * l.length := by
  induction l with
  | nil => rfl
  | cons v rest ih => simp [entriesBits, ih]; omega

/-- `42_serialize.md` R130: the bit string has `15 + 12 n` bits. -/
@[simp] theorem reportBits_length (ack : SN) (l : List SN) : (reportBits ack l).length = 15 + 12 * l.length := by
  simp [reportBits]; omega

/-- The bit reader reads the stream where the window has the bit. -/
theorem getBit_of_lt {ibuf : Memory} {avail p : Nat} (h : p < 8 * avail) :
    getBit ibuf avail p = .ok (streamBit ibuf p) := by
  have hp : p / 8 < avail := by omega
  simp [getBit, memRead, hp, streamBit]

/-- The bit reader reads a field where the window has its bits. -/
theorem getBits_of_le {ibuf : Memory} {avail p n : Nat} (h : p + n ≤ 8 * avail) :
    getBits ibuf avail p n = .ok (streamField (streamBit ibuf) p n) := by
  induction n generalizing p with
  | zero => rfl
  | succ n ih => rw [getBits, getBit_of_lt (by omega), ih (by omega)]; rfl

/-- Where the length check has passed, an entry is read (`43_deserialize.md` R146). -/
theorem readEntry_of_le {ibuf : Memory} {avail : Nat} {sh : Shadow} (h : sh.pos + 12 ≤ 8 * avail) :
    readEntry ibuf avail sh = .ok (sh.push (streamField (streamBit ibuf) sh.pos 10)
      (streamField (streamBit ibuf) (sh.pos + 10) 1)) := by
  rw [readEntry, getBits_of_le (by omega), getBits_of_le (by omega), getBits_of_le (by omega)]

/-- The reading of the prologue, its three outcomes (`43_deserialize.md` R156); never a fault. -/
theorem readPrologue_eq (c : Config) (ibuf : Memory) (avail : Nat) :
    readPrologue c ibuf avail = .ok (
      if avail < 2 then .error (.malformed .trunc)
      else
        match prologueCheck c (streamField (streamBit ibuf) 0 1) (windowCpt ibuf) with
        | some f => .error f
        | none => .ok (Shadow.start (windowAck ibuf) (streamField (streamBit ibuf) 14 1))) := by
  unfold readPrologue
  by_cases h : avail < 2
  · rw [if_pos (by omega), if_pos h]
  · rw [if_neg (by omega), if_neg h, getBits_of_le (by omega), getBits_of_le (by omega), getBits_of_le (by omega),
      getBits_of_le (by omega)]
    simp only [windowCpt, windowAck]
    cases prologueCheck c (streamField (streamBit ibuf) 0 1) (streamField (streamBit ibuf) 1 3) <;> rfl

/-- `prologueCheck` is its three outcomes (`43_deserialize.md` R156). -/
theorem prologueCheck_cases (c : Config) (dc : Flag) (cpt : BitVec 3) :
    (c.strictDc = true ∧ dc ≠ 0 ∧ prologueCheck c dc cpt = some (.malformed .dc)) ∨
    (¬ (c.strictDc = true ∧ dc ≠ 0) ∧ cpt ≠ 0 ∧ prologueCheck c dc cpt = some (.malformed .cpt)) ∨
    (¬ (c.strictDc = true ∧ dc ≠ 0) ∧ cpt = 0 ∧ prologueCheck c dc cpt = none) := by
  unfold prologueCheck
  split
  · exact .inl ⟨‹_ ∧ _›.1, ‹_ ∧ _›.2, rfl⟩
  · split
    · exact .inr (.inl ⟨‹_›, ‹_›, rfl⟩)
    · exact .inr (.inr ⟨‹_›, not_not.1 ‹_›, rfl⟩)

/-- The checks of the prologue as the machine runs them: CPT only (`43_deserialize.md` R148, R149). -/
theorem prologueCheck_cfg (dc : Flag) (cpt : BitVec 3) :
    prologueCheck cfg dc cpt = if cpt = 0 then none else some (.malformed .cpt) := by
  by_cases h : cpt = 0 <;> simp [prologueCheck, cfg, h]

end Sys2Proof.Machine
end

