-- ==== Sys2Proof/Laws/Exec.lean ====
section
/-! SUPPORT. What a step can do, said once: the inputs a step takes, and the outcomes of the two buffer
operations. -/

namespace Sys2Proof.Machine

/-- A FIFO that is unbounded is never full (`10_state.md` R23). -/
@[simp] theorem fifoFull_cfg (n : Nat) : fifoFull cfg n = false := rfl

/-- A one-bit field is 0 or 1. -/
theorem flag_eq_zero_of_ne_one {f : Flag} (h : f ≠ 1) : f = 0 := by
  revert f; decide

/-- What a step can do, by the next input. -/
theorem step_cases (s : State) :
    (s.inputs = [] ∧ step s = .next (noResponse s)) ∨
    (∃ rest, s.inputs = .rst :: rest ∧ step s = .next (resetBlock cfg { s with inputs := rest })) ∨
    (∃ w rest, s.inputs = .rstDuring w :: rest ∧ step s = .next (abandonWord cfg w { s with inputs := rest })) ∨
    (∃ bytes rest, s.inputs = .lendIbuf bytes :: rest ∧
      step s = .next (noResponse { s with inputs := rest, ibuf := Memory.ofBytes bytes })) ∨
    (∃ bytes rest, s.inputs = .lendObuf bytes :: rest ∧
      step s = .next (noResponse { s with inputs := rest, obuf := Memory.ofBytes bytes })) ∨
    (∃ w rest, s.inputs = .word w :: rest ∧ step s = takeWord w { s with inputs := rest }) := by
  unfold step takeInput takeInputWith
  split
  · exact .inl ⟨‹_›, rfl⟩
  · exact .inr (.inl ⟨_, ‹_›, rfl⟩)
  · exact .inr (.inr (.inl ⟨_, _, ‹_›, rfl⟩))
  · exact .inr (.inr (.inr (.inl ⟨_, _, ‹_›, rfl⟩)))
  · exact .inr (.inr (.inr (.inr (.inl ⟨_, _, ‹_›, rfl⟩))))
  · exact .inr (.inr (.inr (.inr (.inr ⟨_, _, ‹_›, rfl⟩))))

/-- What an abandoned operation leaves behind: some of a report's bytes, some of a print's items, or nothing. -/
theorem abandonInstr_cases (i : Instr) (s : State) :
    abandonInstr i s = s ∨
    (∃ opa, i = .srSerialize opa ∧ reportSize s.nack.length ≤ opa ∧ abandonInstr i s = { s with
      obuf := Memory.writeSome (Config.abandonedWrote s.draws) s.obuf 0 (reportBytes s.ackSn s.nack)
      draws := s.draws + 1 }) ∨
    (i = .srPrint ∧ abandonInstr i s = { s with
      sink := s.sink ++ (printItems s.ackSn s.nack).take (Config.abandonedItems s.draws)
      draws := s.draws + 1 }) := by
  cases i with
  | srSerialize opa =>
    by_cases h : byteCount opa < reportSize s.nack.length
    · exact .inl (if_pos h)
    · exact .inr (.inl ⟨opa, rfl, not_lt.1 h, if_neg h⟩)
  | srPrint => exact .inr (.inr ⟨rfl, rfl⟩)
  | _ => exact .inl rfl

/-- The loop never faults, from a shadow whose cursor leaves room for its rounds or not: every bound check passes
because the length check stands before it (`43_deserialize.md` R146). -/
theorem readEntries_ok (c : Config) (ibuf : Memory) (avail rounds : Nat) (sh : Shadow) :
    ∃ r, readEntries c ibuf avail rounds sh = .ok r := by
  induction rounds generalizing sh with
  | zero => exact ⟨_, rfl⟩
  | succ rounds ih =>
    unfold readEntries
    split
    · split
      · exact ⟨_, rfl⟩
      · rename_i hroom
        split
        · exact ⟨_, rfl⟩
        · rw [readEntry_of_le (by omega)]
          exact ih _
    · exact ⟨_, rfl⟩

/-- Reading a report never faults: it fails or it gives a shadow. -/
theorem readReport_ok (c : Config) (ibuf : Memory) (avail : Nat) : ∃ r, readReport c ibuf avail = .ok r := by
  unfold readReport
  rw [readPrologue_eq]
  split <;> rename_i h
  · simp at h
  · exact ⟨_, rfl⟩
  · exact readEntries_ok _ _ _ _ _

/-- `SR.DESERIALIZE` fails with no trace but the response, or commits (`43_deserialize.md` R153, R154). -/
theorem deserialize_cases (c : Config) (opa : Raw) (s : State) :
    (∃ f, deserialize c opa s = .next (raise f s)) ∨ ∃ sh, deserialize c opa s = .next (commit c sh s) := by
  unfold deserialize
  obtain ⟨r, hr⟩ := readReport_ok c s.ibuf (byteCount opa)
  rw [hr]
  cases r with
  | error f => exact .inl ⟨f, rfl⟩
  | ok sh => exact .inr ⟨sh, rfl⟩

/-- `SR.SERIALIZE` fails with no trace but the response, or writes the bytes of the report (`42_serialize.md`
R134, R135). -/
theorem serialize_eq (c : Config) (opa : Raw) (s : State) :
    serialize c opa s =
      if opa < reportSize s.nack.length then .next (raise .capacity s)
      else .next (respondNat c (reportSize s.nack.length)
        { s with obuf := Memory.writeAll s.obuf 0 (reportBytes s.ackSn s.nack) }) := by
  unfold serialize byteCount
  simp only
  split
  · rfl
  · rw [memWriteAll_of_le _ (by simp; omega)]

/-- A word runs the instruction it decodes to, or is answered with the failure of a rejected prologue. -/
theorem takeWordWith_cases (c : Config) (run : Runner) (w : PortWord) (s : State) :
    (∃ i, decodeIn c.rawW w = .ok i ∧ takeWordWith c run w s = run i s) ∨
    (∃ dc cpt, decodeIn c.rawW w = .error (.cptNotStatus dc cpt) ∧ takeWordWith c run w s =
      .next (raise (rejectFailure c (.cptNotStatus dc cpt)) { s with shadow := none })) := by
  unfold takeWordWith
  cases h : decodeIn c.rawW w with
  | ok i => exact .inl ⟨i, rfl, rfl⟩
  | error e =>
    obtain ⟨dc, cpt⟩ := e
    exact .inr ⟨dc, cpt, rfl, rfl⟩

/-- The same of the machine. -/
theorem takeWord_cases (w : PortWord) (s : State) :
    (∃ i, decode w = .ok i ∧ takeWord w s = exec i s) ∨
    (∃ dc cpt, decode w = .error (.cptNotStatus dc cpt) ∧
      takeWord w s = .next (raise (rejectFailure cfg (.cptNotStatus dc cpt)) { s with shadow := none })) :=
  takeWordWith_cases cfg exec w s

/-- What a push can do (`41_report_access.md` R113). -/
theorem pushNack_cases (c : Config) (opa : Raw) (s : State) :
    (fifoFull c s.nack.length = true ∧ pushNack c opa s = raise .full s) ∨
    (fifoFull c s.nack.length = false ∧
      pushNack c opa s = respond 0 { s with nack := s.nack ++ [trunc10 opa] }) := by
  unfold pushNack
  cases fifoFull c s.nack.length
  · exact .inr ⟨rfl, rfl⟩
  · exact .inl ⟨rfl, rfl⟩

/-- What a pop can do (`41_report_access.md` R114). -/
theorem popNack_cases (c : Config) (s : State) :
    (s.nack = [] ∧ popNack c s = respond c.popSentinel s) ∨
    (∃ v rest, s.nack = v :: rest ∧ popNack c s = respond (zextRes v) { s with nack := rest }) := by
  unfold popNack
  split
  · exact .inl ⟨‹_›, rfl⟩
  · exact .inr ⟨_, _, ‹_›, rfl⟩

/-- What a prologue element can do (`43_deserialize.md` R147 to R149). -/
theorem readPrologueElement_cases (c : Config) (dc : Flag) (cpt : BitVec 3) (ack : SN) (e1 : Flag) (s : State) :
    (∃ f, prologueCheck c dc cpt = some f ∧
      readPrologueElement c dc cpt ack e1 s = raise f { s with shadow := none }) ∨
    (prologueCheck c dc cpt = none ∧
      readPrologueElement c dc cpt ack e1 s = noResponse { s with shadow := some (Shadow.start ack e1) }) := by
  unfold readPrologueElement
  cases prologueCheck c dc cpt with
  | none => exact .inr ⟨rfl, rfl⟩
  | some f => exact .inl ⟨f, rfl, rfl⟩

/-- What an entry element can do (`43_deserialize.md` R147). -/
theorem readEntryElement_cases (c : Config) (sn : SN) (e1 : Flag) (s : State) :
    ((∀ sh, s.shadow = some sh → sh.e1 = 0) ∧ readEntryElement c sn e1 s = noResponse s) ∨
    (∃ sh, s.shadow = some sh ∧ sh.e1 = 1 ∧ fifoFull c sh.nack.length = true ∧
      readEntryElement c sn e1 s = raise .full { s with shadow := none }) ∨
    (∃ sh, s.shadow = some sh ∧ sh.e1 = 1 ∧ fifoFull c sh.nack.length = false ∧
      readEntryElement c sn e1 s = noResponse { s with shadow := some (sh.push sn e1) }) := by
  unfold readEntryElement
  cases h : s.shadow with
  | none => exact .inl ⟨by simp, rfl⟩
  | some sh =>
    by_cases he : sh.e1 = 1
    · cases hf : fifoFull c sh.nack.length
      · exact .inr (.inr ⟨sh, rfl, he, hf, by simp [he, hf]⟩)
      · exact .inr (.inl ⟨sh, rfl, he, hf, by simp [he, hf]⟩)
    · refine .inl ⟨fun sh' h' => ?_, by simp only [if_neg he]⟩
      cases h'
      exact flag_eq_zero_of_ne_one he

/-- What a padding element can do (`43_deserialize.md` R150, R152, R153). -/
theorem readPaddingElement_cases (c : Config) (s : State) :
    (s.shadow = none ∧ readPaddingElement c s = noResponse s) ∨
    (∃ sh, s.shadow = some sh ∧ sh.e1 = 1 ∧
      readPaddingElement c s = raise (.malformed .trunc) { s with shadow := none }) ∨
    (∃ sh, s.shadow = some sh ∧ sh.e1 = 0 ∧ readPaddingElement c s = commit c sh { s with shadow := none }) := by
  unfold readPaddingElement
  cases h : s.shadow with
  | none => exact .inl ⟨rfl, rfl⟩
  | some sh =>
    by_cases he : sh.e1 = 1
    · exact .inr (.inl ⟨sh, rfl, he, by simp only [if_pos he]⟩)
    · exact .inr (.inr ⟨sh, rfl, flag_eq_zero_of_ne_one he, by simp only [if_neg he]⟩)

end Sys2Proof.Machine
end

