-- ==== Sys2Proof/Laws/Configured.lean ====
section
/-! SUPPORT. The machine is the block of every configuration at `cfg`, and the block of one context is the machine;
what a block of any configuration and of any number of contexts can do. -/

namespace Sys2Proof.Machine

theorem execIn_cfg (i : Instr) (s : State) : execIn cfg i s = exec i s := by cases i <;> rfl

theorem stepIn_cfg (s : State) : stepIn cfg s = step s := by
  unfold stepIn step takeInput
  rw [show execIn cfg = exec from funext fun i => funext fun s => execIn_cfg i s]

theorem resetIn_cfg : State.resetIn cfg = State.reset := rfl

/-- Under every configuration an instruction answers a next state (`20_memory.md` R43: no bound check fails). -/
theorem execIn_next (c : Config) (i : Instr) (s : State) : ∃ t, execIn c i s = .next t := by
  cases i with
  | srSerialize opa =>
    show ∃ t, serialize c opa s = .next t
    rw [serialize_eq]
    split <;> exact ⟨_, rfl⟩
  | srDeserialize opa =>
    obtain ⟨f, h⟩ | ⟨sh, h⟩ := deserialize_cases c opa s
    · exact ⟨_, h⟩
    · exact ⟨_, h⟩
  | _ => exact ⟨_, rfl⟩

/-- What an instruction on one context of a block does: what it does in a block with that context selected. -/
theorem execAt_eq {c : Config} {k : Fin c.nCtx} {i : Instr} {b : Bank c.nCtx} {t : State}
    (h : execIn c i (b.block.withContext b.contexts[k]) = .next t) :
    execAt c k i b = .next ⟨b.contexts.set k t.context, t⟩ := by
  simp only [execAt, h]

/-- The block of one context is the machine. -/
theorem execAt_cfg (i : Instr) (s t : State) (h : exec i s = .next t) :
    execAt cfg (0 : Fin 1) i ⟨#v[s.context], s⟩ = .next ⟨#v[t.context], t⟩ :=
  execAt_eq (c := cfg) (k := (0 : Fin 1)) (b := ⟨#v[s.context], s⟩) ((execIn_cfg i s).trans h)

end Sys2Proof.Machine
end

