-- ==== Sys2Proof/Laws/PerInstr.lean ====
section
/-! SUPPORT. The per-instruction family `TableRow`: an instruction's word stands in the row of its mnemonic. -/

namespace Sys2Proof.Laws

open Sys2Proof Sys2Proof.Machine

/-- The op code of a row of `30_encoding.md` R70, R74 by its mnemonic; none for a wire element. -/
def TableRow.opCode (mnemonic : String) : Option (BitVec 4) :=
  ["SN.CONSTRUCT", "SN.VALUE", "SN.EQUALS", "SN.INC", "SN.CMP", "SR.CLEAR", "SR.SETACK", "SR.GETACK",
    "SR.PUSHNACK", "SR.POPNACK", "SR.GETSIZE", "SR.SERIALIZE", "SR.DESERIALIZE", "SR.PRINT", "RESERVED_E",
    "RESERVED_F"].findIdx? (· == mnemonic) |>.map (BitVec.ofNat 4)

/-- A command's word carries the op code of its mnemonic; a wire element's word is of the width of its row. -/
def TableRow.Statement (i : Instr) : Prop :=
  match encode i with
  | .command op _ _ => isCommand i = true ∧ TableRow.opCode i.mnemonic = some op
  | .wire15 _ => isCommand i = false ∧ i.mnemonic = "STATUS.PROLOGUE"
  | .wire12 _ => isCommand i = false ∧ i.mnemonic = "STATUS.NACK_ENTRY"
  | .wirePad _ => isCommand i = false ∧ i.mnemonic = "STATUS.PADDING"

theorem TableRow.snConstruct (opa : Raw) : TableRow.Statement (.snConstruct opa) :=
  ⟨rfl, (by decide : TableRow.opCode "SN.CONSTRUCT" = some 0)⟩
theorem TableRow.snValue (opa : Raw) : TableRow.Statement (.snValue opa) :=
  ⟨rfl, (by decide : TableRow.opCode "SN.VALUE" = some 1)⟩
theorem TableRow.snEquals (opa : Raw) (opb : SN) : TableRow.Statement (.snEquals opa opb) :=
  ⟨rfl, (by decide : TableRow.opCode "SN.EQUALS" = some 2)⟩
theorem TableRow.snInc (opa : Raw) : TableRow.Statement (.snInc opa) :=
  ⟨rfl, (by decide : TableRow.opCode "SN.INC" = some 3)⟩
theorem TableRow.snCmp (opa : Raw) (opb : SN) : TableRow.Statement (.snCmp opa opb) :=
  ⟨rfl, (by decide : TableRow.opCode "SN.CMP" = some 4)⟩
theorem TableRow.srClear : TableRow.Statement .srClear :=
  ⟨rfl, (by decide : TableRow.opCode "SR.CLEAR" = some 5)⟩
theorem TableRow.srSetack (opa : Raw) : TableRow.Statement (.srSetack opa) :=
  ⟨rfl, (by decide : TableRow.opCode "SR.SETACK" = some 6)⟩
theorem TableRow.srGetack : TableRow.Statement .srGetack :=
  ⟨rfl, (by decide : TableRow.opCode "SR.GETACK" = some 7)⟩
theorem TableRow.srPushnack (opa : Raw) : TableRow.Statement (.srPushnack opa) :=
  ⟨rfl, (by decide : TableRow.opCode "SR.PUSHNACK" = some 8)⟩
theorem TableRow.srPopnack : TableRow.Statement .srPopnack :=
  ⟨rfl, (by decide : TableRow.opCode "SR.POPNACK" = some 9)⟩
theorem TableRow.srGetsize : TableRow.Statement .srGetsize :=
  ⟨rfl, (by decide : TableRow.opCode "SR.GETSIZE" = some 10)⟩
theorem TableRow.srSerialize (opa : Raw) : TableRow.Statement (.srSerialize opa) :=
  ⟨rfl, (by decide : TableRow.opCode "SR.SERIALIZE" = some 11)⟩
theorem TableRow.srDeserialize (opa : Raw) : TableRow.Statement (.srDeserialize opa) :=
  ⟨rfl, (by decide : TableRow.opCode "SR.DESERIALIZE" = some 12)⟩
theorem TableRow.srPrint : TableRow.Statement .srPrint :=
  ⟨rfl, (by decide : TableRow.opCode "SR.PRINT" = some 13)⟩
theorem TableRow.reservedE : TableRow.Statement .reservedE :=
  ⟨rfl, (by decide : TableRow.opCode "RESERVED_E" = some 14)⟩
theorem TableRow.reservedF : TableRow.Statement .reservedF :=
  ⟨rfl, (by decide : TableRow.opCode "RESERVED_F" = some 15)⟩
theorem TableRow.statusPrologue (dc : Flag) (cpt : BitVec 3) (ack : SN) (e1 : Flag) :
    TableRow.Statement (.statusPrologue dc cpt ack e1) := ⟨rfl, rfl⟩
theorem TableRow.statusNackEntry (sn : SN) (e1 e2 : Flag) : TableRow.Statement (.statusNackEntry sn e1 e2) :=
  ⟨rfl, rfl⟩
theorem TableRow.statusPadding (p : PadBits) : TableRow.Statement (.statusPadding p) := ⟨rfl, rfl⟩

end Sys2Proof.Laws
end

