-- ==== Sys2Proof/Tests/Slice0.lean ====
section
/-! SUPPORT. The model's own tests, each one step on a small state, expected values from the spec's own vectors
(`95_test_vectors.md`) and worked examples; and a witness for the hypotheses of each statement that has some. -/

namespace Sys2Proof.Tests

set_option Elab.async false

open Sys2Proof Sys2Proof.Machine

/-! ## Helpers -/

/-- A state with this context and these input bytes. -/
def ctx (ack : SN) (nack : List SN) (ibuf : List Byte) : State :=
  { State.reset with ackSn := ack, nack := nack, ibuf := Memory.ofBytes ibuf }

/-- The response of an outcome. -/
def rspOf (o : Host.Outcome State Fault Refusal) : Option Response :=
  match o with
  | .next t => t.rsp
  | .fault _ => none
  | .refused _ => none

/-- The context an outcome leaves. -/
def ctxOf (o : Host.Outcome State Fault Refusal) : Option (SN × List SN) :=
  match o with
  | .next t => some (t.ackSn, t.nack)
  | .fault _ => none
  | .refused _ => none

/-- The first bytes of OBUF an outcome leaves. -/
def obufOf (o : Host.Outcome State Fault Refusal) (n : Nat) : List Byte :=
  match o with
  | .next t => (List.range n).map (Memory.read t.obuf)
  | .fault _ => []
  | .refused _ => []

/-- The response OK with a result. -/
def ok (v : Res) : Option Response := some ⟨.ok, 0, v⟩

/-- Source vector V4 and V5 (`95_test_vectors.md` 1.1). -/
def v4 : List Byte := [0x00, 0x0b, 0xfe, 0xd7, 0x90]
def v5 : List Byte := [0x00, 0x0b, 0xfe, 0xd7, 0x95, 0xd9, 0x80]
def v6 : List Byte := [0x00, 0x0b, 0xfe, 0xd7, 0x95, 0xd9, 0xca, 0xd8]

/-- A configuration with parameters the machine does not take, for claims about every configuration. -/
def strictDepth2 : Config where
  rawW := 16
  resW := 12
  ackReset := 0
  popSentinel := -1
  nackDepth := some 2
  snOrder := snOrderDefault .un
  snTie := .un
  strictDc := true
  nCtx := 3

/-- The same with D/C not checked. -/
def depth2 : Config := { strictDepth2 with strictDc := false }

/-! ## Well-formedness -/

/-- An operand that the 32 wires of `opa` do not carry, in each format; the largest they carry. -/
theorem test_wf_opa :
    (Instr.snConstruct 4294967296).wf = false ∧ (Instr.snEquals 4294967296 0).wf = false ∧
      (Instr.srDeserialize 4294967296).wf = false ∧ (Instr.srSerialize 4294967295).wf = true ∧
      (Instr.srSerialize 65536).wfIn 16 = false := by decide

/-- The prologue's match and mask: CPT = 001 and CPT = 111 are refused, 000 is not. -/
theorem test_wf_prologue_cpt :
    (Instr.statusPrologue 0 1 8 0).wf = false ∧ (Instr.statusPrologue 0 7 8 0).wf = false ∧
      (Instr.statusPrologue 1 0 8 0).wf = true := by decide

/-! ## Decoding: words written out from `30_encoding.md` R70 and R60 -/

theorem test_decode_unit_sn :
    decode (.command 0b0000 0x0000_0769 0) = .ok (.snConstruct 1897) ∧
    decode (.command 0b0001 0x0000_0369 0) = .ok (.snValue 873) ∧
    decode (.command 0b0010 0x0000_0001 0b1000000000) = .ok (.snEquals 1 512) ∧
    decode (.command 0b0011 0x0000_03ff 0) = .ok (.snInc 1023) ∧
    decode (.command 0b0100 0x0000_03ff 0b0000000001) = .ok (.snCmp 1023 1) := ⟨rfl, rfl, rfl, rfl, rfl⟩

theorem test_decode_unit_sr :
    decode (.command 0b0101 9 9) = .ok .srClear ∧
    decode (.command 0b0110 0x0000_0408 0) = .ok (.srSetack 1032) ∧
    decode (.command 0b0111 9 9) = .ok .srGetack ∧
    decode (.command 0b1000 0x0000_02f2 0) = .ok (.srPushnack 754) ∧
    decode (.command 0b1001 9 9) = .ok .srPopnack ∧
    decode (.command 0b1010 9 9) = .ok .srGetsize ∧
    decode (.command 0b1011 0xffff_ffff 0) = .ok (.srSerialize 0xffff_ffff) ∧
    decode (.command 0b1100 9 0) = .ok (.srDeserialize 9) ∧
    decode (.command 0b1101 9 9) = .ok .srPrint := ⟨rfl, rfl, rfl, rfl, rfl, rfl, rfl, rfl, rfl⟩

theorem test_decode_reserved :
    decode (.command 0b1110 9 9) = .ok .reservedE ∧ decode (.command 0b1111 9 9) = .ok .reservedF := ⟨rfl, rfl⟩

/-- V4's fields: `0|000|0000000010|1`, `1111111101|1|0`, `1011110010|0|0`, padding `0`; CPT = 001 is rejected. -/
theorem test_decode_wire :
    decode (.wire15 0b0_000_0000000010_1) = .ok (.statusPrologue 0 0 2 1) ∧
    decode (.wire15 0b1_000_1101101001_0) = .ok (.statusPrologue 1 0 873 0) ∧
    decode (.wire15 0b0_001_0000001000_0) = .error (.cptNotStatus 0 1) ∧
    decode (.wire12 0b1111111101_1_0) = .ok (.statusNackEntry 1021 1 0) ∧
    decode (.wire12 0b1011110010_0_1) = .ok (.statusNackEntry 754 0 1) ∧
    decode (.wirePad (.one 0)) = .ok (.statusPadding (.one 0)) := ⟨rfl, rfl, rfl, rfl, rfl, rfl⟩

theorem test_table_words :
    decodeTableWord 8 0xB = some (.srSerialize 0) ∧ decodeTableWord 16 0b0_000_1101101001_0 =
      some (.statusPrologue 0 0 873 0) ∧ decodeTableWord 16 0x0800 = none := ⟨rfl, rfl, rfl⟩

/-! ## Unit SN (`95_test_vectors.md` 2.1) -/

theorem test_construct : rspOf (exec (.snConstruct 0xfffffc97) (ctx 0 [] [])) = ok 151 := by decide
theorem test_value : rspOf (exec (.snValue 1897) (ctx 0 [] [])) = ok 873 := by decide
theorem test_equals :
    rspOf (exec (.snEquals 1026 2) (ctx 0 [] [])) = ok 1 ∧ rspOf (exec (.snEquals 512 0) (ctx 0 [] [])) = ok 0 := by
  decide
theorem test_inc_wraps : rspOf (exec (.snInc 1023) (ctx 0 [] [])) = ok 0 := by decide
theorem test_inc : rspOf (exec (.snInc 511) (ctx 0 [] [])) = ok 512 := by decide

/-- The rows of the comparison table that no tie enters, under the default order. -/
theorem test_cmp_default :
    (compareSn depth2 1023 0 (ctx 0 [] [])).rsp = ok 1 ∧ (compareSn depth2 0 1023 (ctx 0 [] [])).rsp = ok 2 ∧
    (compareSn depth2 0 511 (ctx 0 [] [])).rsp = ok 1 ∧ (compareSn depth2 0 513 (ctx 0 [] [])).rsp = ok 2 ∧
    (compareSn depth2 873 2 (ctx 0 [] [])).rsp = ok 1 ∧ (compareSn depth2 7 7 (ctx 0 [] [])).rsp = ok 0 := by decide

/-! ## Unit SR, access (`95_test_vectors.md` 2.2) -/

theorem test_setack_reduces : ctxOf (exec (.srSetack 1032) (ctx 8 [5] [])) = some (8, [5]) := by decide
theorem test_getack : rspOf (exec .srGetack (ctx 873 [] [])) = ok 873 := by decide
theorem test_push_keeps_duplicates :
    ctxOf (exec (.srPushnack 1897) (ctx 2 [873] [])) = some (2, [873, 873]) := by decide
theorem test_push_full :
    (pushNack depth2 3 (ctx 2 [1, 2] [])).rsp = some ⟨.full, 0, 0⟩ ∧
      (pushNack depth2 3 (ctx 2 [1, 2] [])).nack = [1, 2] := by decide
theorem test_pop_head :
    rspOf (exec .srPopnack (ctx 2 [1021, 754] [])) = ok 1021 ∧
      ctxOf (exec .srPopnack (ctx 2 [1021, 754] [])) = some (2, [754]) := by decide
theorem test_pop_zero_is_real : rspOf (exec .srPopnack (ctx 2 [0] [])) = ok 0 := by decide
theorem test_clear_empties : (ctxOf (exec .srClear (ctx 2 [1021, 754] []))).map Prod.snd = some [] := by decide
theorem test_getsize : rspOf (exec .srGetsize (ctx 9 [1021, 754, 947] [])) = ok 7 := by decide
theorem test_sizes :
    reportSize 0 = 2 ∧ reportSize 8 = 14 ∧ reportSize 100 = 152 ∧ reportSize 1024 = 1538 := by decide
theorem test_print :
    printItems 2 [1021, 754] = [⟨.ack, 2⟩, ⟨.nack, 1021⟩, ⟨.nack, 754⟩] := by decide
theorem test_reserved : rspOf (exec .reservedF (ctx 873 [5] [])) = some ⟨.illegalOp, 0, 0⟩ := by decide

/-! ## Encoding (`95_test_vectors.md` 1.1, 2.3) -/

theorem test_encode_source_vectors :
    reportBytes 8 [] = [0x00, 0x20] ∧ reportBytes 873 [] = [0x0d, 0xa4] ∧
      reportBytes 2 [873] = [0x00, 0x0b, 0xb4, 0x80] ∧ reportBytes 2 [1021, 754] = v4 ∧
      reportBytes 2 [1021, 754, 947] = v5 ∧ reportBytes 2 [1021, 754, 947, 347] = v6 := by decide +kernel
theorem test_encode_n5 :
    reportBytes 512 [0, 1023, 512, 1, 2] = [0x08, 0x02, 0x00, 0x5f, 0xfd, 0x00, 0x40, 0x0c, 0x01, 0x00] := by
  decide +kernel
theorem test_writer_v6 : (Writer.putReport 2 [1021, 754, 947, 347]).img = v6 := by decide +kernel
theorem test_view_v6 : (List.range 8).map (viewByte 2 [1021, 754, 947, 347]) = v6 := by decide +kernel

/-- Capacity 7 on a window of ee bytes: five bytes written, two untouched. -/
theorem test_serialize_leaves_the_rest :
    obufOf (exec (.srSerialize 7) { ctx 2 [1021, 754] [] with obuf := Memory.ofBytes (List.replicate 7 0xee) }) 7 =
      v4 ++ [0xee, 0xee] := by decide +kernel
theorem test_serialize_capacity :
    rspOf (exec (.srSerialize 4) (ctx 2 [1021, 754] [])) = some ⟨.capacity, 0, 0⟩ := by decide

/-! ## Decoding (`95_test_vectors.md` 2.4) -/

theorem test_decode_v5_replaces :
    rspOf (exec (.srDeserialize 9) (ctx 7 [9] (v5 ++ [0xaa, 0x55]))) = ok 7 ∧
      ctxOf (exec (.srDeserialize 9) (ctx 7 [9] (v5 ++ [0xaa, 0x55]))) = some (2, [1021, 754, 947]) := by
  decide +kernel
theorem test_decode_ignores_dc_e2_padding :
    ctxOf (exec (.srDeserialize 5) (ctx 7 [9] [0x80, 0x0b, 0xfe, 0xf7, 0x93])) = some (2, [1021, 754]) := by
  decide +kernel
theorem test_decode_truncated_entry :
    rspOf (exec (.srDeserialize 6) (ctx 7 [9] v5)) = some ⟨.malformed, 0, 0⟩ ∧
      ctxOf (exec (.srDeserialize 6) (ctx 7 [9] v5)) = some (7, [9]) := by decide +kernel
theorem test_decode_cpt :
    rspOf (exec (.srDeserialize 2) (ctx 7 [9] [0x70, 0x20])) = some ⟨.malformed, 1, 0⟩ ∧
      rspOf (exec (.srDeserialize 1) (ctx 7 [9] [0x7f])) = some ⟨.malformed, 0, 0⟩ := by decide +kernel
theorem test_decode_strict_dc :
    rspOf (deserialize strictDepth2 2 (ctx 7 [9] [0x80, 0x20])) = some ⟨.malformed, 2, 0⟩ := by decide +kernel
theorem test_decode_full :
    rspOf (deserialize depth2 7 (ctx 7 [9] v5)) = some ⟨.full, 0, 0⟩ := by decide +kernel

/-! ## Wire elements, and the step -/

theorem test_element_entry :
    (readEntryElement cfg 754 0 { ctx 2 [] [] with shadow := some ⟨27, 2, 1, [1021]⟩ }).shadow =
      some ⟨39, 2, 0, [1021, 754]⟩ := by decide
theorem test_element_padding_commits :
    (readPaddingElement cfg { ctx 7 [9] [] with shadow := some ⟨39, 2, 0, [1021, 754]⟩ }).rsp = ok 5 ∧
      (readPaddingElement cfg { ctx 7 [9] [] with shadow := some ⟨39, 2, 0, [1021, 754]⟩ }).nack = [1021, 754] := by
  decide
theorem test_element_words_of_v4 :
    windowWords (Memory.ofBytes v4) 2 =
      [.wire15 0b0_000_0000000010_1, .wire12 0b1111111101_1_0, .wire12 0b1011110010_0_0, .wirePad (.one 0)] := by
  decide +kernel
theorem test_step_runs_the_word :
    rspOf (step (State.withFetchWord (ctx 873 [] []) 8 0x7)) = ok 873 := by decide
theorem test_step_first_after_reset :
    rspOf (step (State.reset.withFetchWord 8 0xB)) = some ⟨.capacity, 0, 0⟩ := by decide
theorem test_step_rejected_prologue :
    rspOf (step (present (.wire15 0b0_001_0000001000_0) (ctx 8 [] []))) = some ⟨.malformed, 1, 0⟩ := by decide

/-- `rst` during a `SR.SERIALIZE` that would have failed: the window untouched, no response, the FIFO empty. -/
theorem test_abandoned_serialize :
    (abandonWord cfg (.command 0b1011 4 0) { ctx 2 [1021, 754] [] with obuf := Memory.ofBytes [0xee] }).obuf =
      Memory.ofBytes [0xee] ∧
      (abandonWord cfg (.command 0b1011 5 0) (ctx 2 [1021, 754] [])).rsp = none ∧
      (abandonWord cfg (.command 0b1011 5 0) (ctx 2 [1021, 754] [])).nack = [] := by decide +kernel

/-- A configuration with other parameters: sentinel and depth through `execIn`, `RES_W` = 12 cannot carry 2048. -/
theorem test_configured :
    rspOf (execIn depth2 .srPopnack (ctx 2 [] [])) = ok (-1) ∧
      rspOf (execIn depth2 (.srPushnack 3) (ctx 2 [1, 2] [])) = some ⟨.full, 0, 0⟩ ∧
      rspOf (stepIn depth2 (present (.command 0b0110 65537 0) (ctx 2 [] []))) = ok 0 ∧
      ctxOf (stepIn depth2 (present (.command 0b0110 65537 0) (ctx 2 [] []))) = some (1, []) ∧
      (getSize depth2 (ctx 2 [] [])).draws = 0 ∧ (respondNat depth2 2048 (ctx 2 [] [])).draws = 1 := by
  decide +kernel

/-! ## Witnesses -/

theorem witness_DecodeOfEncodeIsTheInstruction :
    (Instr.statusPrologue 1 0 1023 1).wf = true ∧ (Instr.srSerialize 4294967295).wf = true := by decide

/-- A command with buses its format ignores, and a wire element. -/
theorem witness_EncodeOfDecodeIsTheWord :
    (decode (.command 0b0101 7 7) = .ok .srClear ∧ isCommand .srClear = true) ∧
      (decode (.wire12 0b1111111101_1_1) = .ok (.statusNackEntry 1021 1 1) ∧
        isCommand (.statusNackEntry 1021 1 1) = false) := ⟨⟨rfl, rfl⟩, rfl, rfl⟩

theorem witness_StepRunsTheDecodedInstruction :
    (present (.command 0b0111 0 0) State.reset).inputs = .word (.command 0b0111 0 0) :: [] ∧
      decode (.command 0b0111 0 0) = .ok .srGetack := ⟨rfl, rfl⟩

theorem witness_StepAnswersARejectedPrologueMalformed :
    (present (.wire15 0b1_111_0000000000_0) State.reset).inputs = .word (.wire15 0b1_111_0000000000_0) :: [] ∧
      decode (.wire15 0b1_111_0000000000_0) = .error (.cptNotStatus 1 7) := ⟨rfl, rfl⟩

theorem witness_StepTakesReset : { State.reset with inputs := [.rst, .rst] }.inputs = .rst :: [.rst] := rfl

/-- A `SR.SERIALIZE` into a window large enough, abandoned. -/
theorem witness_ResetDuringAnOperationAbandonsIt :
    Memory.wf (ctx 2 [1021, 754] []).obuf ∧
      { ctx 2 [1021, 754] [] with inputs := [.rstDuring (.command 0b1011 5 0), .rst] }.inputs =
        .rstDuring (.command 0b1011 5 0) :: [.rst] ∧ decode (.command 0b1011 5 0) = .ok (.srSerialize 5) :=
  ⟨Memory.wf_nil, rfl, rfl⟩

theorem witness_StepWithoutAWordLeavesTheBlock :
    State.reset.inputs = [] ∧ { State.reset with inputs := [.lendIbuf v4] }.inputs = .lendIbuf v4 :: [] ∧
      { State.reset with inputs := [.lendObuf []] }.inputs = .lendObuf [] :: [] := ⟨rfl, rfl, rfl⟩

/-- A state in the middle of a reception, with bytes in both windows and a failure's response, that meets the
invariant and steps. -/
theorem witness_EveryStepKeepsTheInvariant :
    ∃ s t : State, Inv s ∧ s.shadow ≠ none ∧ s.ibuf ≠ [] ∧ s.rsp ≠ none ∧ step s = .next t := by
  refine ⟨{ ctx 2 [5] v4 with
    shadow := some ⟨27, 2, 1, [1021]⟩
    obuf := Memory.ofBytes v5
    rsp := some ⟨.malformed, 1, 0⟩
    inputs := [.word (.command 0b1001 0 0)] }, _, ⟨Memory.ofBytes_wf _, Memory.ofBytes_wf _, ?_, ?_⟩, ?_, ?_, ?_, rfl⟩
  · intro sh h
    cases h
    rfl
  · intro r h
    cases h
    exact ⟨fun _ => rfl, by simp, by decide, by decide⟩
  · simp
  · decide
  · simp

/-- A pair of values at each boundary of the forward distance: 0, 1, 511, 512, 513, 1023. -/
theorem witness_DefaultOrderGoesByForwardDistance :
    ((5 : SN).toNat + 1024 - (5 : SN).toNat) % 1024 = 0 ∧ ((0 : SN).toNat + 1024 - (1023 : SN).toNat) % 1024 = 1 ∧
    ((511 : SN).toNat + 1024 - (0 : SN).toNat) % 1024 = 511 ∧
    ((0 : SN).toNat + 1024 - (512 : SN).toNat) % 1024 = 512 ∧
    ((812 : SN).toNat + 1024 - (299 : SN).toNat) % 1024 = 513 ∧
    ((1023 : SN).toNat + 1024 - (0 : SN).toNat) % 1024 = 1023 := by decide

theorem witness_DefaultOrderIsAdmissible :
    depth2.snOrder = snOrderDefault depth2.snTie ∧ 10 ≤ depth2.rawW ∧ 12 ≤ depth2.resW ∧ depth2.popSentinel < 0 ∧
      -2 ^ (depth2.resW - 1) ≤ depth2.popSentinel := ⟨rfl, by decide⟩

/-- The default order at each boundary of its clauses, an unreduced `opa` among them. -/
theorem witness_CompareUnderTheDefaultOrder :
    depth2.snOrder = snOrderDefault depth2.snTie ∧
    1 = ((0 : SN).toNat + 1024 - 2047 % 1024) % 1024 ∧ 511 = ((511 : SN).toNat + 1024 - 1024 % 1024) % 1024 ∧
    512 = ((0 : SN).toNat + 1024 - 1536 % 1024) % 1024 ∧ 513 = ((513 : SN).toNat + 1024 - 0 % 1024) % 1024 ∧
    1023 = ((0 : SN).toNat + 1024 - 1 % 1024) % 1024 := ⟨rfl, by decide, by decide, by decide, by decide, by decide⟩

/-- -1 on a bus of 32 wires. -/
theorem witness_ConstructReducesModulo1024 : 10 ≤ 32 ∧ (-1 : BitVec 32).toNat = 4294967295 := by decide

/-- A FIFO of depth 2 with two entries, and with one. -/
theorem witness_PushAppendsReducedValueOrIsFull :
    depth2.nackDepth = some (ctx 2 [1, 2] []).nack.length ∧ depth2.nackDepth ≠ some (ctx 2 [1] []).nack.length := by
  decide

theorem witness_PopReturnsTheHeadOrANegativeValue :
    (ctx 2 [] []).nack = [] ∧ (ctx 2 [1021, 754] []).nack = 1021 :: [754] := ⟨rfl, rfl⟩

/-- The empty FIFO, and one at the bound itself; `RES_W` = 12 and the largest size it carries. -/
theorem witness_GetSizeCountsTheBytes :
    (ctx 2 [] []).nack.length ≤ 1431655763 ∧ (ctx 2 (List.replicate 1431655763 0) []).nack.length ≤ 1431655763 ∧
      (22 + 12 * 1363) / 8 = 2 ^ (depth2.resW - 1) - 1 ∧ (22 + 12 * 1363) / 8 < 2 ^ (depth2.resW - 1) :=
  ⟨by decide, le_of_eq List.length_replicate, by decide, by decide⟩

/-- After one pop of two: the second is the oldest left; after two, none is. -/
theorem witness_PopsReturnOldestFirst :
    (ctx 2 [1021, 754] []).nack[1]? = some 754 ∧ (ctx 2 [1021, 754] []).nack.length ≤ 2 := by decide

/-- Both entries of V4, and its one padding bit. -/
theorem witness_ReportBytesHaveTheLayout :
    ([1021, 754] : List SN)[0]? = some 1021 ∧ ([1021, 754] : List SN)[1]? = some 754 ∧
      15 + 12 * ([1021, 754] : List SN).length ≤ 39 ∧ 39 < 8 * reportSize ([1021, 754] : List SN).length := by decide

/-- The first byte and the last of V6. -/
theorem witness_ByteViewIsTheReport :
    0 < reportSize ([1021, 754, 947, 347] : List SN).length ∧ 7 < reportSize ([1021, 754, 947, 347] : List SN).length := by
  decide

theorem witness_DifferentContextsGiveDifferentBytes : reportBytes 2 [873, 873] = reportBytes (2 + 1024) [873, 873] := by
  decide +kernel

/-- A window one byte too small; one exactly as large as the report, a byte inside it, an offset behind it. -/
theorem witness_SerializeWritesTheReportOrNothing :
    4 < reportSize (ctx 2 [1021, 754] []).nack.length ∧
    Memory.wf (ctx 2 [1021, 754] []).obuf ∧ reportSize (ctx 2 [1021, 754] []).nack.length ≤ 5 ∧
      (ctx 2 [1021, 754] []).nack.length ≤ 1431655763 ∧ (reportBytes 2 [1021, 754])[4]? = some 0x90 ∧
      reportSize (ctx 2 [1021, 754] []).nack.length ≤ 5 := by
  refine ⟨by decide, Memory.wf_nil, ?_⟩
  decide +kernel

/-- A field that ends with the window, and one that ends one bit behind it. -/
theorem witness_BitReaderReadsMostSignificantFirst : 15 + 12 ≤ 8 * 4 ∧ 4 + 12 ≤ 8 * 2 ∧ 8 * 2 < 7 + 10 ∧ 0 < 10 := by
  decide

/-- V4 in a window of five bytes; a report of no entries in two; D/C, E2 and padding set. -/
theorem witness_DeserializeCommitsAnAcceptedReport :
    Accepts (ctx 7 [9] v4).ibuf 5 2 ∧ Accepts (ctx 7 [9] [0x80, 0x21]).ibuf 2 0 ∧
      Accepts (ctx 7 [9] [0x80, 0x0b, 0xfe, 0xf7, 0x93]).ibuf 9 2 := by
  unfold Accepts Announces windowCpt
  decide +kernel

/-- Too short; CPT = 001; an announced entry that does not fit. -/
theorem witness_DeserializeRejectsEveryOtherInput :
    (∀ n, ¬ Accepts (ctx 7 [9] [0x7f]).ibuf 1 n) ∧
      (∀ n, ¬ Accepts (ctx 7 [9] [0x10, 0x20]).ibuf 2 n) ∧
      (∀ n, ¬ Accepts (ctx 7 [9] [0x00, 0x02]).ibuf 2 n) := by
  refine ⟨fun n h => ?_, fun n h => ?_, fun n h => ?_⟩
  · have := h.1
    simp at this
    omega
  · exact absurd h.2.1 (by unfold windowCpt; decide +kernel)
  · obtain ⟨h1, _, h3, _⟩ := h
    have h0 : n = 0 := by
      simp at h1
      omega
    subst h0
    exact absurd h3 (by decide +kernel)

/-- One byte under `STRICT_DC`; two bytes with D/C = 1; two with D/C = 0, and with D/C not checked, and CPT = 001. -/
theorem witness_PrologueChecksComeInOrder :
    1 < 2 ∧
    (2 ≤ 2 ∧ strictDepth2.strictDc = true ∧ streamBit (ctx 7 [9] [0x90, 0x20]).ibuf 0 = true) ∧
    (2 ≤ 2 ∧ streamBit (ctx 7 [9] [0x10, 0x20]).ibuf 0 = false ∧
      windowCpt (ctx 7 [9] [0x10, 0x20]).ibuf ≠ 0) ∧
    (depth2.strictDc = false ∧ windowCpt (ctx 7 [9] [0x90, 0x20]).ibuf ≠ 0) := by
  unfold windowCpt
  decide +kernel

/-- V5 announces three entries to a FIFO of depth 2. -/
theorem witness_DeserializeBeyondTheDepthIsFull :
    depth2.nackDepth = some 2 ∧ (depth2.strictDc = false ∨ streamBit (ctx 7 [9] v5).ibuf 0 = false) ∧
      (strictDepth2.strictDc = false ∨ streamBit (ctx 7 [9] v5).ibuf 0 = false) ∧ windowCpt (ctx 7 [9] v5).ibuf = 0 ∧
      15 + 12 * (2 + 1) ≤ 8 * 7 ∧ streamBit (ctx 7 [9] v5).ibuf 14 = true ∧
      ∀ k, k < 2 → streamBit (ctx 7 [9] v5).ibuf (25 + 12 * k) = true := by
  unfold windowCpt
  decide +kernel

/-- V4 written to OBUF and read back from another state's IBUF of nine bytes. -/
theorem witness_DeserializeOfSerializeIsTheContext :
    ∃ t, Memory.wf (ctx 2 [1021, 754] []).obuf ∧ (ctx 2 [1021, 754] []).nack.length ≤ 1431655763 ∧
      reportSize (ctx 2 [1021, 754] []).nack.length ≤ 5 ∧
      exec (.srSerialize 5) (ctx 2 [1021, 754] []) = .next t ∧
      reportSize (ctx 2 [1021, 754] []).nack.length ≤ 9 ∧
      ∀ a, a < reportSize (ctx 2 [1021, 754] []).nack.length →
        Memory.read (ctx 7 [9] (v4 ++ [0xaa])).ibuf a = Memory.read t.obuf a := by
  refine ⟨_, Memory.wf_nil, by decide, by decide, rfl, by decide, ?_⟩
  decide +kernel

/-- V5 cut after six bytes, and after none. -/
theorem witness_EveryTruncatedReportIsRejected :
    (6 < reportSize ([1021, 754, 947] : List SN).length ∧
      ∀ a, a < 6 → (reportBytes 2 [1021, 754, 947])[a]? = some (Memory.read (ctx 7 [9] v5).ibuf a)) ∧
    (0 < reportSize ([] : List SN).length ∧
      ∀ a, a < 0 → (reportBytes 8 [])[a]? = some (Memory.read (ctx 7 [9] []).ibuf a)) := by
  decide +kernel

/-- V4, and the same report with D/C, an E2 and the padding set and a byte behind it. -/
theorem witness_IgnoredBitsDoNotMatter :
    ∃ t, Accepts (ctx 7 [9] v4).ibuf 6 2 ∧
      (∀ p, 0 < p → p < 15 + 12 * 2 → (∀ k, k < 2 → p ≠ 26 + 12 * k) →
        streamBit (Memory.ofBytes [0x80, 0x0b, 0xfe, 0xf7, 0x93, 0xaa]) p = streamBit (ctx 7 [9] v4).ibuf p) ∧
      exec (.srDeserialize 6) (ctx 7 [9] v4) = .next t := by
  refine ⟨_, ?_, ?_, rfl⟩
  · unfold Accepts Announces windowCpt
    decide +kernel
  · have h : ∀ p, p < 15 + 12 * 2 → 0 < p → (∀ k, k < 2 → p ≠ 26 + 12 * k) →
        streamBit (Memory.ofBytes [0x80, 0x0b, 0xfe, 0xf7, 0x93, 0xaa]) p = streamBit (ctx 7 [9] v4).ibuf p := by
      decide +kernel
    exact fun p h0 h1 h2 => h p h1 h0 h2

/-- Windows that differ behind `avail` = 4, where the outcome is a failure. -/
theorem witness_DeserializeReadsOnlyItsWindow :
    ∃ t, (∀ a, a < 4 → Memory.read (Memory.ofBytes [0x00, 0x0b, 0xfe, 0xd7, 0xff]) a =
      Memory.read (ctx 7 [9] v4).ibuf a) ∧ exec (.srDeserialize 4) (ctx 7 [9] v4) = .next t := by
  refine ⟨_, ?_, rfl⟩
  decide +kernel

/-- A byte of the long window below: 0 in front, 0 where the last E1 stands, else ff. -/
def longByte (i : Nat) : Byte := if i = 0 ∨ i = 2147483647 then 0 else 0xff

/-- A window that announces one entry more than `res` can count the bytes of. -/
def longWindow : Memory := Memory.ofBytes ((List.range 2147483648).map longByte)

theorem longWindow_bit {p : Nat} (h : p / 8 < 2147483648) :
    streamBit longWindow p = (longByte (p / 8)).getLsbD (7 - p % 8) := by
  simp only [streamBit, longWindow, Memory.read_ofBytes]
  rw [List.getD_eq_getElem?_getD, List.getElem?_map, List.getElem?_range h]
  rfl

/-- `1431655764` entries, one above the bound: in the FIFO with room to write them, and in the window. -/
theorem witness_ResultsTooWideStillComplete :
    1431655763 < 1431655764 ∧ (ctx 2 (List.replicate 1431655764 0) []).nack.length = 1431655764 ∧
      reportSize 1431655764 ≤ 0xffff_ffff ∧
      Memory.wf (ctx 2 (List.replicate 1431655764 0) []).obuf ∧
      Accepts longWindow 0xffff_ffff 1431655764 := by
  refine ⟨by omega, List.length_replicate, by decide, Memory.wf_nil, by decide, ?_, ?_, fun k hk => ?_⟩
  · apply streamField_eq
    intro i hi
    rw [longWindow_bit (by omega), longByte, if_pos (by omega)]
    simp
  · rw [longWindow_bit (by omega)]
    decide
  · rw [longWindow_bit (by omega)]
    by_cases hl : k + 1 < 1431655764
    · rw [longByte, if_neg (by omega)]
      have h7 : 7 - (25 + 12 * k) % 8 < 8 := by omega
      generalize 7 - (25 + 12 * k) % 8 = j at h7
      simp only [hl, decide_true]
      interval_cases j <;> decide
    · obtain rfl : k = 1431655763 := by omega
      decide

theorem witness_PrologueElementStartsTheShadow : (0 : BitVec 3) = 0 ∧ (1 : BitVec 3) ≠ 0 := by decide

/-- An announced entry; none announced; no decoding in progress. -/
theorem witness_EntryElementExtendsTheShadow :
    { ctx 2 [] [] with shadow := some ⟨15, 2, 1, []⟩ }.shadow = some ⟨15, 2, 1, []⟩ ∧
      { ctx 2 [] [] with shadow := some ⟨27, 2, 0, [5]⟩ }.shadow = some ⟨27, 2, 0, [5]⟩ ∧
      (ctx 2 [] []).shadow = none := ⟨rfl, rfl, rfl⟩

/-- A report of no entries and one of one entry at their ends; an entry still announced; none in progress. -/
theorem witness_PaddingElementEndsTheReport :
    { ctx 7 [9] [] with shadow := some ⟨15, 2, 0, []⟩ }.shadow = some ⟨15 + 12 * ([] : List SN).length, 2, 0, []⟩ ∧
      { ctx 7 [9] [] with shadow := some ⟨27, 2, 0, [5]⟩ }.shadow =
        some ⟨15 + 12 * ([5] : List SN).length, 2, 0, [5]⟩ ∧ ([5] : List SN).length ≤ 1431655763 ∧
      { ctx 7 [9] [] with shadow := some ⟨27, 2, 1, [5]⟩ }.shadow = some ⟨27, 2, 1, [5]⟩ ∧
      (ctx 7 [9] []).shadow = none := by decide

theorem witness_ElementByElementIsDeserialize :
    (ctx 7 [9] v4).shadow = none ∧ Accepts (ctx 7 [9] v4).ibuf 5 2 := by
  refine ⟨rfl, ?_⟩
  unfold Accepts Announces windowCpt
  decide +kernel

/-- A failure of a command, and of a wire element in the middle of a reception. -/
theorem witness_FailuresLeaveNoTrace :
    (∃ t r, exec (.srSerialize 3) (ctx 873 [5] []) = .next t ∧ t.rsp = some r ∧ r.status ≠ .ok ∧
      isCommand (.srSerialize 3) = true) ∧
    (∃ t r, exec (.statusPadding (.one 0)) { ctx 873 [5] [] with shadow := some ⟨15, 2, 1, []⟩ } = .next t ∧
      t.rsp = some r ∧ r.status ≠ .ok) :=
  ⟨⟨_, _, rfl, rfl, by decide, rfl⟩, ⟨_, _, rfl, rfl, by decide⟩⟩

/-- Two blocks of three contexts that agree on the one selected and differ in another. -/
theorem witness_ContextsAreIndependent :
    ∃ b b' : Bank depth2.nCtx, b'.contexts[(1 : Fin 3)] = b.contexts[(1 : Fin 3)] ∧
      (∀ x, b'.block.withContext x = b.block.withContext x) ∧ b'.contexts ≠ b.contexts :=
  ⟨Bank.resetIn depth2, ⟨#v[⟨5, [6], none⟩, ⟨0, [], none⟩, ⟨0, [], none⟩], State.resetIn depth2⟩, by decide,
    fun _ => rfl, by decide⟩

theorem witness_EveryOperationResponds : isCommand (.srDeserialize 2) = true ∧ isCommand .reservedE = true := by decide

theorem witness_TwelveOperationsNeverFail : Instr.srPopnack ∈ [Instr.snConstruct 0, .snValue 0, .snEquals 0 0,
    .snInc 0, .snCmp 0 0, .srClear, .srSetack 0, .srGetack, .srPushnack 0, .srPopnack, .srGetsize, .srPrint] := by
  decide

/-- For each clause an instruction that writes. -/
theorem witness_OnlyTheListedOperationsWriteEachState :
    (∃ t, exec (.srSetack 3) (ctx 2 [5] []) = .next t ∧ t.ackSn ≠ (ctx 2 [5] []).ackSn) ∧
    (∃ t, exec (.srPushnack 3) (ctx 2 [5] []) = .next t ∧ t.nack ≠ (ctx 2 [5] []).nack) ∧
    (∃ t, exec (.srSerialize 9) (ctx 2 [5] []) = .next t ∧ t.obuf ≠ (ctx 2 [5] []).obuf) ∧
    (∃ t, exec .srPrint (ctx 2 [5] []) = .next t ∧ t.sink ≠ (ctx 2 [5] []).sink) ∧
    (∃ t, exec (.statusPrologue 0 0 2 1) (ctx 2 [5] []) = .next t ∧ t.shadow ≠ (ctx 2 [5] []).shadow) :=
  ⟨⟨_, rfl, by decide⟩, ⟨_, rfl, by decide⟩, ⟨_, rfl, by decide +kernel⟩, ⟨_, rfl, by decide⟩, ⟨_, rfl, by decide⟩⟩

end Sys2Proof.Tests
end

/-! ## Frames

The frame of each operation that branches (`10_state.md` R20, R21; `20_memory.md` R40, R41): whichever branch
it takes, it is an update of the fields its lemma names, and of no other. -/

namespace Sys2Proof.Machine

/-- A numeric answer writes the response and the model's count of draws. -/
theorem respondNat_frame (c : Config) (n : Nat) (s : State) :
    ∃ r d, respondNat c n s = { s with rsp := r, draws := d } := by
  by_cases h : n < 2 ^ (c.resW - 1)
  · exact ⟨_, s.draws, respondNat_of_lt h s⟩
  · exact ⟨_, _, respondNat_of_ge h s⟩

/-- A push writes `NACK` and the response. -/
theorem pushNack_frame (c : Config) (opa : Raw) (s : State) :
    ∃ l r, pushNack c opa s = { s with nack := l, rsp := r } := by
  obtain ⟨-, h⟩ | ⟨-, h⟩ := pushNack_cases c opa s
  · exact ⟨s.nack, _, h⟩
  · exact ⟨_, _, h⟩

/-- A pop writes `NACK` and the response. -/
theorem popNack_frame (c : Config) (s : State) : ∃ l r, popNack c s = { s with nack := l, rsp := r } := by
  obtain ⟨-, h⟩ | ⟨_, _, -, h⟩ := popNack_cases c s
  · exact ⟨s.nack, _, h⟩
  · exact ⟨_, _, h⟩

/-- The commit of a report writes the context, the response and the count of draws. -/
theorem commit_frame (c : Config) (sh : Shadow) (s : State) :
    ∃ a l r d, commit c sh s = { s with ackSn := a, nack := l, rsp := r, draws := d } := by
  obtain ⟨r, d, h⟩ := respondNat_frame c sh.consumed (setContext sh.ack sh.nack s)
  exact ⟨_, _, r, d, h⟩

/-- `SR.SERIALIZE` writes OBUF, the response and the count of draws. -/
theorem serialize_frame (c : Config) (opa : Raw) (s : State) :
    ∃ m r d, serialize c opa s = .next { s with obuf := m, rsp := r, draws := d } := by
  rw [serialize_eq]
  split
  · exact ⟨s.obuf, _, s.draws, rfl⟩
  · obtain ⟨r, d, h⟩ := respondNat_frame c (reportSize s.nack.length)
      { s with obuf := Memory.writeAll s.obuf 0 (reportBytes s.ackSn s.nack) }
    exact ⟨_, r, d, congrArg _ h⟩

/-- `SR.DESERIALIZE` writes the context, the response and the count of draws. -/
theorem deserialize_frame (c : Config) (opa : Raw) (s : State) :
    ∃ a l r d, deserialize c opa s = .next { s with ackSn := a, nack := l, rsp := r, draws := d } := by
  obtain ⟨f, h⟩ | ⟨sh, h⟩ := deserialize_cases c opa s
  · exact ⟨s.ackSn, s.nack, _, s.draws, h⟩
  · obtain ⟨a, l, r, d, hc⟩ := commit_frame c sh s
    exact ⟨a, l, r, d, h.trans (congrArg _ hc)⟩

/-- A prologue element writes the shadow and the response. -/
theorem readPrologueElement_frame (c : Config) (dc : Flag) (cpt : BitVec 3) (ack : SN) (e1 : Flag) (s : State) :
    ∃ x r, readPrologueElement c dc cpt ack e1 s = { s with shadow := x, rsp := r } := by
  obtain ⟨_, -, h⟩ | ⟨-, h⟩ := readPrologueElement_cases c dc cpt ack e1 s
  · exact ⟨_, _, h⟩
  · exact ⟨_, _, h⟩

/-- An entry element writes the shadow and the response. -/
theorem readEntryElement_frame (c : Config) (sn : SN) (e1 : Flag) (s : State) :
    ∃ x r, readEntryElement c sn e1 s = { s with shadow := x, rsp := r } := by
  obtain ⟨-, h⟩ | ⟨_, -, -, -, h⟩ | ⟨_, -, -, -, h⟩ := readEntryElement_cases c sn e1 s
  · exact ⟨s.shadow, _, h⟩
  · exact ⟨_, _, h⟩
  · exact ⟨_, _, h⟩

/-- A padding element writes the context, the shadow, the response and the count of draws. -/
theorem readPaddingElement_frame (c : Config) (s : State) :
    ∃ a l x r d, readPaddingElement c s = { s with ackSn := a, nack := l, shadow := x, rsp := r, draws := d } := by
  obtain ⟨-, h⟩ | ⟨_, -, -, h⟩ | ⟨sh, -, -, h⟩ := readPaddingElement_cases c s
  · exact ⟨s.ackSn, s.nack, s.shadow, _, s.draws, h⟩
  · exact ⟨s.ackSn, s.nack, _, _, s.draws, h⟩
  · obtain ⟨a, l, r, d, hc⟩ := commit_frame c sh { s with shadow := none }
    exact ⟨a, l, _, r, d, h.trans hc⟩

/-! ## Who writes what, and the independence of contexts (`10_state.md` R20, R21, R33) -/

/-- Settles O59: by the instruction; the state it answers is written out as an update of `s`, by the frame lemma of
its operation where that one branches, and the fields outside the update are those of `s`. -/
theorem onlyTheListedOperationsWriteEachState : Obligations.OnlyTheListedOperationsWriteEachState := by
  intro i s t h
  cases i with
  | srPushnack opa =>
    obtain ⟨l, r, e⟩ := pushNack_frame cfg opa s
    cases h
    simp [e]
  | srPopnack =>
    obtain ⟨l, r, e⟩ := popNack_frame cfg s
    cases h
    simp [e]
  | srSerialize opa =>
    obtain ⟨m, r, d, e⟩ := serialize_frame cfg opa s
    cases e.symm.trans h
    simp
  | srDeserialize opa =>
    obtain ⟨a, l, r, d, e⟩ := deserialize_frame cfg opa s
    cases e.symm.trans h
    simp
  | statusPrologue dc cpt ack e1 =>
    obtain ⟨x, r, e⟩ := readPrologueElement_frame cfg dc cpt ack e1 s
    cases h
    simp [e, isCommand]
  | statusNackEntry sn e1 e2 =>
    obtain ⟨x, r, e⟩ := readEntryElement_frame cfg sn e1 s
    cases h
    simp [e, isCommand]
  | statusPadding p =>
    obtain ⟨a, l, x, r, d, e⟩ := readPaddingElement_frame cfg s
    cases h
    simp [e, isCommand]
  | _ =>
    cases h
    simp [compareSn, clearReport, getSize]

/-- Settles O60: the operation sees its block only as that block with context `k` selected, which is the same state
for both blocks, and the answer is stored at index `k` alone. -/
theorem contextsAreIndependent : Obligations.ContextsAreIndependent := by
  intro c k i b b' hctx hblock
  obtain ⟨t, ht⟩ := execIn_next c i (b.block.withContext b.contexts[k])
  have ht' : execIn c i (b'.block.withContext b'.contexts[k]) = .next t := by rw [hctx, hblock, ht]
  refine ⟨t, _, _, ht, execAt_eq ht, rfl, by simp, fun j hj => ?_, execAt_eq ht', rfl, by simp⟩
  exact Vector.getElem_set_ne k.isLt j.isLt (Fin.val_ne_of_ne hj.symm)

end Sys2Proof.Machine

/-! ## The step and the word it takes (`20_memory.md` R48) -/

namespace Sys2Proof.Machine

/-- A word that decodes is taken by running its instruction. -/
theorem takeWord_of_decode {w : PortWord} {i : Instr} (h : decode w = .ok i) (s : State) :
    takeWord w s = exec i s := by
  obtain ⟨j, hj, e⟩ | ⟨_, _, he, -⟩ := takeWord_cases w s
  · cases hj.symm.trans h
    exact e
  · cases he.symm.trans h

/-- A step whose next input is a word takes that word. -/
theorem step_of_word {w : PortWord} {rest : List Input} {s : State} (h : s.inputs = .word w :: rest) :
    step s = takeWord w { s with inputs := rest } := by
  simp only [step, takeInput, takeInputWith, h, takeWord]

/-- Settles O5: the step takes the word, and the word runs what it decodes to. -/
theorem stepRunsTheDecodedInstruction : Obligations.StepRunsTheDecodedInstruction := by
  intro s w rest i hw hi
  rw [step_of_word hw, takeWord_of_decode hi]

/-! ## What a reading of IBUF depends on (`20_memory.md` R41, R43)

The decoder sees IBUF through the bound-checked read alone. Two windows that this read does not tell apart are
therefore not told apart by a bit, a field, an element or a whole report, on the paths that fail as on those that
succeed. -/

/-- The bound-checked read sees the bytes below `avail` only: outside it is the fault, whatever the window holds. -/
theorem memRead_congr {m m' : Memory} {avail : Nat} (h : ∀ a, a < avail → Memory.read m a = Memory.read m' a)
    (a : Nat) : memRead m avail a = memRead m' avail a := by
  unfold memRead
  split
  · rw [h a ‹_›]
  · rfl

section SameReads
variable {m m' : Memory} {avail : Nat} (h : ∀ a, memRead m avail a = memRead m' avail a)
include h

theorem getBit_congr (p : Nat) : getBit m avail p = getBit m' avail p := by
  rw [getBit, getBit, h]

theorem getBits_congr (p n : Nat) : getBits m avail p n = getBits m' avail p n := by
  induction n generalizing p with
  | zero => rfl
  | succ n ih => rw [getBits, getBits, getBit_congr h, ih]

theorem readPrologue_congr (c : Config) : readPrologue c m avail = readPrologue c m' avail := by
  simp only [readPrologue, getBits_congr h]

theorem readEntry_congr (sh : Shadow) : readEntry m avail sh = readEntry m' avail sh := by
  simp only [readEntry, getBits_congr h]

theorem readEntries_congr (c : Config) (rounds : Nat) (sh : Shadow) :
    readEntries c m avail rounds sh = readEntries c m' avail rounds sh := by
  induction rounds generalizing sh with
  | zero => rfl
  | succ rounds ih => simp only [readEntries, readEntry_congr h, ih]

theorem readReport_congr (c : Config) : readReport c m avail = readReport c m' avail := by
  simp only [readReport, readPrologue_congr h, readEntries_congr h]

end SameReads

/-- The commit neither reads nor writes IBUF. -/
theorem commit_withIbuf (c : Config) (sh : Shadow) (s : State) (m : Memory) :
    commit c sh { s with ibuf := m } = { commit c sh s with ibuf := m } := by
  unfold commit respondNat
  split <;> rfl

/-- `SR.DESERIALIZE` depends on IBUF through the report it reads there alone: another window that reads the same
gives the same outcome, and is kept. -/
theorem deserialize_withIbuf {c : Config} {opa : Raw} {s t : State} {m : Memory}
    (hread : readReport c m (byteCount opa) = readReport c s.ibuf (byteCount opa))
    (h : deserialize c opa s = .next t) : deserialize c opa { s with ibuf := m } = .next { t with ibuf := m } := by
  unfold deserialize at h ⊢
  simp only [hread]
  obtain ⟨r, hr⟩ := readReport_ok c s.ibuf (byteCount opa)
  rw [hr] at h ⊢
  cases r with
  | error f =>
    cases h
    rfl
  | ok sh =>
    cases h
    exact congrArg _ (commit_withIbuf c sh s m)

/-- Settles O50: windows equal below `avail` answer every bound-checked read alike, so they read as the same report
or the same failure. -/
theorem deserializeReadsOnlyItsWindow : Obligations.DeserializeReadsOnlyItsWindow := by
  intro opa s t m hbytes h
  exact deserialize_withIbuf (readReport_congr (memRead_congr hbytes) cfg) h

end Sys2Proof.Machine

/-! ## The decoder and the encoder (`30_encoding.md` R60, R70, R71)

Every word decodes to a well-formed instruction, and a well-formed instruction is what its own word decodes to; so
what is left to say of a word is how much of it the encoding of its instruction keeps. -/

namespace Sys2Proof.Machine

open BitVec (extractLsb'_append_extractLsb'_eq_extractLsb' extractLsb'_append_eq_of_le extractLsb'_append_eq_left
  extractLsb'_append_eq_right)

/-- The decoder's sample of `opa` is a number the wires carry (R71). -/
theorem sampleOpa_lt (rawW : Nat) (opa : Raw) : sampleOpa rawW opa < 2 ^ rawW := Nat.mod_lt _ (Nat.two_pow_pos _)

/-- A number the wires carry is sampled as itself. -/
theorem sampleOpa_of_lt {rawW : Nat} {opa : Raw} (h : opa < 2 ^ rawW) : sampleOpa rawW opa = opa := Nat.mod_eq_of_lt h

@[simp] theorem decode_command (op : BitVec 4) (opa : Raw) (opb : SN) :
    decode (.command op opa opb) = .ok (decodeCommand op (sampleOpa Config.rawWTaken opa) opb) := rfl

/-- The four bits of `op`, bit 3 first, as the decoder compares them (R70). -/
theorem op_eq_bits (op : BitVec 4) :
    op = BitVec.ofBool (op.getLsbD 3) ++ BitVec.ofBool (op.getLsbD 2) ++ BitVec.ofBool (op.getLsbD 1) ++
      BitVec.ofBool (op.getLsbD 0) := by
  revert op; decide

@[simp] theorem isCommand_decodeCommand (op : BitVec 4) (opa : Raw) (opb : SN) :
    isCommand (decodeCommand op opa opb) = true := by
  unfold decodeCommand
  split <;> rfl

/-- Whatever `op` is, a command is well formed where the wires of `opa` carry its operand. -/
theorem wfIn_decodeCommand {rawW : Nat} {opa : Raw} (h : opa < 2 ^ rawW) (op : BitVec 4) (opb : SN) :
    (decodeCommand op opa opb).wfIn rawW = true := by
  unfold decodeCommand
  split <;> simp [Instr.wfIn, h]

/-- The word of a decoded command has its `op`; a bus its format uses is kept, any other is zero (R68, R70). -/
theorem encode_decodeCommand (op : BitVec 4) (opa : Raw) (opb : SN) :
    ∃ opa' opb', encode (decodeCommand op opa opb) = .command op opa' opb' ∧ (opa' = opa ∨ opa' = 0) ∧
      (opb' = opb ∨ opb' = 0) := by
  have hop := op_eq_bits op
  unfold decodeCommand
  split
  all_goals
    rename_i h3 h2 h1 h0
    rw [h3, h2, h1, h0] at hop
    subst hop
    exact ⟨_, _, rfl, by simp, by simp⟩

/-- The four fields of a prologue in stream order are its 15 bits (R60). -/
theorem prologue_fields_append (w : BitVec 15) :
    w.extractLsb' 14 1 ++ w.extractLsb' 11 3 ++ w.extractLsb' 1 10 ++ w.extractLsb' 0 1 = w := by
  have h4 : w.extractLsb' 14 1 ++ w.extractLsb' 11 3 = w.extractLsb' 11 4 :=
    extractLsb'_append_extractLsb'_eq_extractLsb' rfl
  have h14 : w.extractLsb' 11 4 ++ w.extractLsb' 1 10 = w.extractLsb' 1 14 :=
    extractLsb'_append_extractLsb'_eq_extractLsb' rfl
  rw [h4, h14]
  exact BitVec.extractLsb'_append_extractLsb'

/-- The three fields of a NACK entry in stream order are its 12 bits (R60). -/
theorem entry_fields_append (w : BitVec 12) :
    w.extractLsb' 2 10 ++ w.extractLsb' 1 1 ++ w.extractLsb' 0 1 = w := by
  have h11 : w.extractLsb' 2 10 ++ w.extractLsb' 1 1 = w.extractLsb' 1 11 :=
    extractLsb'_append_extractLsb'_eq_extractLsb' rfl
  rw [h11]
  exact BitVec.extractLsb'_append_extractLsb'

/-- The fields of a prologue with CPT 000 are cut where they were joined. -/
theorem decodeWire15_fields (dc : Flag) (ack : SN) (e1 : Flag) :
    decodeWire15 (dc ++ (0 : BitVec 3) ++ ack ++ e1) = .ok (.statusPrologue dc 0 ack e1) := by
  have hdc : (dc ++ (0 : BitVec 3) ++ ack ++ e1).extractLsb' 14 1 = dc :=
    (extractLsb'_append_eq_of_le (by decide)).trans
      ((extractLsb'_append_eq_of_le (by decide)).trans extractLsb'_append_eq_left)
  have hcpt : (dc ++ (0 : BitVec 3) ++ ack ++ e1).extractLsb' 11 3 = 0 :=
    (extractLsb'_append_eq_of_le (by decide)).trans
      ((extractLsb'_append_eq_of_le (by decide)).trans extractLsb'_append_eq_right)
  have hack : (dc ++ (0 : BitVec 3) ++ ack ++ e1).extractLsb' 1 10 = ack :=
    (extractLsb'_append_eq_of_le (by decide)).trans extractLsb'_append_eq_right
  have he1 : (dc ++ (0 : BitVec 3) ++ ack ++ e1).extractLsb' 0 1 = e1 := extractLsb'_append_eq_right
  simp only [decodeWire15, hdc, hcpt, hack, he1, if_true]

/-- The fields of a NACK entry are cut where they were joined. -/
theorem decodeWire12_fields (sn : SN) (e1 e2 : Flag) :
    decodeWire12 (sn ++ e1 ++ e2) = .statusNackEntry sn e1 e2 := by
  have hsn : (sn ++ e1 ++ e2).extractLsb' 2 10 = sn :=
    (extractLsb'_append_eq_of_le (by decide)).trans extractLsb'_append_eq_left
  have he1 : (sn ++ e1 ++ e2).extractLsb' 1 1 = e1 :=
    (extractLsb'_append_eq_of_le (by decide)).trans extractLsb'_append_eq_right
  have he2 : (sn ++ e1 ++ e2).extractLsb' 0 1 = e2 := extractLsb'_append_eq_right
  simp only [decodeWire12, hsn, he1, he2]

/-- A prologue word that decodes has CPT 000 and is read field by field (R66). -/
theorem decode_wire15 {w : BitVec 15} {i : Instr} (h : decode (.wire15 w) = .ok i) :
    w.extractLsb' 11 3 = 0 ∧
      i = .statusPrologue (w.extractLsb' 14 1) (w.extractLsb' 11 3) (w.extractLsb' 1 10) (w.extractLsb' 0 1) := by
  by_cases hcpt : w.extractLsb' 11 3 = 0
  · simp only [decode, decodeIn, decodeWire15, if_pos hcpt] at h
    exact ⟨hcpt, (Except.ok.inj h).symm⟩
  · simp only [decode, decodeIn, decodeWire15, if_neg hcpt] at h
    cases h

/-- What a word decodes to is well formed: the operand is a sample of the wires, and the CPT has been checked. -/
theorem wf_of_decode {w : PortWord} {i : Instr} (h : decode w = .ok i) : i.wf = true := by
  cases w with
  | command op opa opb =>
    cases h
    exact wfIn_decodeCommand (sampleOpa_lt _ _) op opb
  | wire15 w =>
    obtain ⟨hcpt, rfl⟩ := decode_wire15 h
    exact beq_iff_eq.2 hcpt
  | wire12 w =>
    cases h
    rfl
  | wirePad p =>
    cases h
    rfl

/-- A well-formed instruction is what its own word decodes to: the operand is within the wires of `opa`, and the
fields of a wire element are cut where they were joined. -/
theorem decode_encode_of_wf {i : Instr} (h : i.wf = true) : decode (encode i) = .ok i := by
  cases i with
  | snConstruct opa | snValue opa | snEquals opa opb | snInc opa | snCmp opa opb | srSetack opa | srPushnack opa
  | srSerialize opa | srDeserialize opa =>
    rw [encode, decode_command, sampleOpa_of_lt (of_decide_eq_true h)]
    rfl
  | statusPrologue dc cpt ack e1 =>
    obtain rfl : cpt = 0 := beq_iff_eq.1 h
    exact decodeWire15_fields dc ack e1
  | statusNackEntry sn e1 e2 => exact congrArg Except.ok (decodeWire12_fields sn e1 e2)
  | _ => rfl

/-- The encoding of a decoded wire element is its word, bit for bit. -/
theorem encode_of_decode_wire {w : PortWord} {i : Instr} (h : decode w = .ok i) (hi : isCommand i = false) :
    encode i = w := by
  cases w with
  | command op opa opb =>
    cases h
    simp at hi
  | wire15 w =>
    obtain ⟨-, rfl⟩ := decode_wire15 h
    exact congrArg PortWord.wire15 (prologue_fields_append w)
  | wire12 w =>
    cases h
    exact congrArg PortWord.wire12 (entry_fields_append w)
  | wirePad p =>
    cases h
    rfl

/-- A command comes from a command word alone. -/
theorem exists_command_of_decode {w : PortWord} {i : Instr} (h : decode w = .ok i) (hi : isCommand i = true) :
    ∃ op opa opb, w = .command op opa opb ∧ i = decodeCommand op (sampleOpa Config.rawWTaken opa) opb := by
  cases w with
  | command op opa opb =>
    cases h
    exact ⟨op, opa, opb, rfl, rfl⟩
  | wire15 w =>
    obtain ⟨-, rfl⟩ := decode_wire15 h
    cases hi
  | wire12 w =>
    cases h
    cases hi
  | wirePad p =>
    cases h
    cases hi

/-- Settles O2: what a word decodes to is well formed, so it is what its own encoding decodes to; a wire element's
fields joined again are its word, and a command keeps its `op` and each bus it reads. -/
theorem encodeOfDecodeIsTheWord : Obligations.EncodeOfDecodeIsTheWord := by
  intro w i h
  have hwf := wf_of_decode h
  refine ⟨hwf, decode_encode_of_wf hwf, encode_of_decode_wire h, fun hi => ?_⟩
  obtain ⟨op, opa, opb, rfl, rfl⟩ := exists_command_of_decode h hi
  obtain ⟨opa', opb', henc, ha, hb⟩ := encode_decodeCommand op (sampleOpa Config.rawWTaken opa) opb
  exact ⟨op, opa, opb, opa', opb', rfl, henc, ha, hb⟩

end Sys2Proof.Machine

/-! ## The layout of a report (`30_encoding.md` R60 to R63)

The bytes of a report, lent as a window, carry the bits of the report by stream position, and zeros behind them. The
bit string is a chain of fields, so a field stands in the stream where the fields in front of it end. -/

namespace Sys2Proof.Machine

/-! ### Size and padding (R62, R63) -/

theorem reportSize_even (j : Nat) : reportSize (2 * j) = 3 * j + 2 := by
  unfold reportSize
  omega

theorem reportSize_odd (j : Nat) : reportSize (2 * j + 1) = 3 * j + 4 := by
  unfold reportSize
  omega

/-- The padding fills the last byte (R63). -/
theorem paddingBits_add (n : Nat) : paddingBits n + (15 + 12 * n) = 8 * reportSize n :=
  Nat.sub_add_cancel (reportSize_bounds n).1

theorem paddingBits_of_even {n : Nat} (h : n % 2 = 0) : paddingBits n = 1 := by
  have hpad := paddingBits_add n
  have hsize := reportSize_even (n / 2)
  rw [show 2 * (n / 2) = n by omega] at hsize
  omega

theorem paddingBits_of_odd {n : Nat} (h : n % 2 = 1) : paddingBits n = 5 := by
  have hpad := paddingBits_add n
  have hsize := reportSize_odd (n / 2)
  rw [show 2 * (n / 2) + 1 = n by omega] at hsize
  omega

/-- Settles O36: the ceiling is the bounds on the size, the other forms are its value by the parity of `n`. -/
theorem reportSizeAndPadding : Obligations.ReportSizeAndPadding := by
  intro n j
  obtain ⟨hlow, hhigh⟩ := reportSize_bounds n
  have hquarter : reportSize n = (11 + 6 * n) / 4 := by
    unfold reportSize
    omega
  exact ⟨hlow, by omega, rfl, hquarter, reportSize_even j, reportSize_odd j, paddingBits_add n, paddingBits_of_even,
    paddingBits_of_odd⟩

/-! ### The bits of a report and the stream of its bytes (R130, R131) -/

@[simp] theorem paddedBits_length (ack : SN) (l : List SN) : (paddedBits ack l).length = 8 * reportSize l.length := by
  have h := paddingBits_add l.length
  simp only [paddedBits, List.length_append, reportBits_length, List.length_replicate]
  omega

/-- The padding is zero, as is what lies behind it. -/
theorem paddedBits_getD (ack : SN) (l : List SN) (p : Nat) :
    (paddedBits ack l).getD p false = (reportBits ack l).getD p false := by
  by_cases h : p < (reportBits ack l).length
  · exact List.getD_append _ _ _ _ h
  · rw [paddedBits, List.getD_append_right _ _ _ _ (not_lt.1 h), List.getD_eq_default _ _ (not_lt.1 h)]
    simp

/-- Byte `i` of a report holds stream bits `8 i` to `8 i + 7`; there is none behind the last (R131). -/
theorem reportBytes_getD (ack : SN) (l : List SN) (i : Nat) :
    (reportBytes ack l).getD i 0 = streamField (fun p => (reportBits ack l).getD p false) (8 * i) 8 := by
  by_cases h : i < reportSize l.length
  · rw [← funext (paddedBits_getD ack l)]
    simp [reportBytes, h]
  · have hlen := reportSize_bounds l.length
    rw [List.getD_eq_default _ _ (by simpa using h)]
    refine (streamField_eq fun k hk => ?_).symm
    rw [List.getD_eq_default _ _ (by rw [reportBits_length]; omega)]
    simp

/-- The stream of a report's bytes is the bits of the report, first bit in bit 7 of the first byte. -/
theorem streamBit_reportBytes (ack : SN) (l : List SN) (p : Nat) :
    streamBit (Memory.ofBytes (reportBytes ack l)) p = (reportBits ack l).getD p false := by
  have hbit : p % 8 < 8 := Nat.mod_lt p (by decide)
  have hmsb (x : Byte) : x.getLsbD (7 - p % 8) = x.getMsbD (p % 8) := by
    simp [BitVec.getMsbD, hbit]
  rw [streamBit, Memory.read_ofBytes, reportBytes_getD, hmsb, streamField_getMsbD, Nat.div_add_mod]
  simp [hbit]

/-- A field that stands in a bit string behind `pre` is the stream's field at the length of `pre`. -/
theorem streamField_of_append {n : Nat} {stream : Nat → Bool} {bits pre post : List Bool} {v : BitVec n}
    (hs : ∀ p, stream p = bits.getD p false) (hbits : bits = pre ++ (fieldBits v ++ post)) :
    streamField stream pre.length n = v := by
  apply streamField_eq
  intro i hi
  rw [hs, hbits, List.getD_append_right _ _ _ _ (Nat.le_add_right _ _), Nat.add_sub_cancel_left,
    List.getD_append _ _ _ _ (by simpa using hi), fieldBits_getD]

/-- The bit that stands in a bit string behind `pre`. -/
theorem getD_of_append {bits pre post : List Bool} {b : Bool} (hbits : bits = pre ++ b :: post) :
    bits.getD pre.length false = b := by
  simp [hbits]

/-- Entry `k` stands behind the `12 k` bits of the entries in front of it: its NACK_SN, E1 as long as entries
remain, E2 = 0 (R60, R65). -/
theorem entriesBits_split {l : List SN} {k : Nat} {sn : SN} (h : l[k]? = some sn) :
    ∃ pre post, entriesBits l = pre ++ (fieldBits sn ++ (decide (k + 1 < l.length) :: false :: post)) ∧
      pre.length = 12 * k := by
  induction k generalizing l with
  | zero =>
    obtain ⟨rest, rfl⟩ : ∃ rest, l = sn :: rest := by
      cases l with
      | nil => cases h
      | cons v rest => exact ⟨rest, by simpa using h⟩
    refine ⟨[], entriesBits rest, ?_, rfl⟩
    cases rest <;> simp [entriesBits]
  | succ k ih =>
    cases l with
    | nil => cases h
    | cons v rest =>
      obtain ⟨pre, post, hsplit, hlen⟩ := ih (l := rest) (by simpa using h)
      refine ⟨fieldBits v ++ [!rest.isEmpty] ++ [false] ++ pre, post, ?_, by simp [hlen]; omega⟩
      simp [entriesBits, hsplit]

/-- The header of a report: D/C and CPT, four zeros, then ACK_SN and E1, set where there are entries (R60, R61). -/
theorem reportBits_header (ack : SN) (l : List SN) :
    reportBits ack l = List.replicate 4 false ++ (fieldBits ack ++ (decide (1 ≤ l.length) :: entriesBits l)) := by
  have he1 : (!l.isEmpty) = decide (1 ≤ l.length) := by cases l <;> simp
  rw [reportBits, he1]
  simp

/-- Entry `k` of a report stands at `15 + 12 k` (R60). -/
theorem reportBits_entry {ack : SN} {l : List SN} {k : Nat} {sn : SN} (h : l[k]? = some sn) :
    ∃ pre post, reportBits ack l = pre ++ (fieldBits sn ++ (decide (k + 1 < l.length) :: false :: post)) ∧
      pre.length = 15 + 12 * k := by
  obtain ⟨pre, post, hsplit, hlen⟩ := entriesBits_split h
  refine ⟨List.replicate 4 false ++ (fieldBits ack ++ [decide (1 ≤ l.length)]) ++ pre, post, ?_,
    by simp [hlen]; omega⟩
  rw [reportBits_header, hsplit]
  simp

section Stream
variable {ack : SN} {l : List SN} {s : Nat → Bool} (hs : ∀ p, s p = (reportBits ack l).getD p false)
include hs

/-- D/C and CPT are zero (R61). -/
theorem reportStream_of_lt_four {p : Nat} (hp : p < 4) : s p = false := by
  rw [hs, reportBits_header, List.getD_append _ _ _ _ (by simpa using hp)]
  exact List.getD_replicate _ hp

theorem reportStream_ack : streamField s 4 10 = ack :=
  streamField_of_append (pre := List.replicate 4 false) hs (reportBits_header ack l)

theorem reportStream_headerE1 : s 14 = decide (1 ≤ l.length) := by
  have hbits := reportBits_header ack l
  rw [← List.append_assoc] at hbits
  simpa [hs] using getD_of_append hbits

/-- The fields of entry `k`, at `15 + 12 k`. -/
theorem reportStream_entry {k : Nat} {sn : SN} (h : l[k]? = some sn) :
    streamField s (15 + 12 * k) 10 = sn ∧ s (25 + 12 * k) = decide (k + 1 < l.length) ∧
      s (26 + 12 * k) = false := by
  obtain ⟨pre, post, hbits, hlen⟩ := reportBits_entry (ack := ack) h
  have hsn := streamField_of_append hs hbits
  rw [← List.append_assoc] at hbits
  have he1 := getD_of_append hbits
  rw [List.append_cons] at hbits
  have he2 := getD_of_append hbits
  simp only [List.length_append, fieldBits_length, List.length_singleton, hlen] at hsn he1 he2
  refine ⟨hsn, ?_, ?_⟩
  · rw [hs, ← he1]
    congr 1
    omega
  · rw [hs, ← he2]
    congr 1
    omega

/-- Behind the last entry the stream is zero: the padding (R63), and what lies behind it. -/
theorem reportStream_of_ge {p : Nat} (hp : 15 + 12 * l.length ≤ p) : s p = false := by
  rw [hs, List.getD_eq_default _ _ (by simpa using hp)]

end Stream

/-- A byte whose four leading bits are zero is at most 0x0f (R61). -/
theorem toNat_le_of_leading_zeros {x : Byte} (h : ∀ p, p < 4 → x.getLsbD (7 - p) = false) : x.toNat ≤ 0x0f := by
  refine Nat.le_of_lt_succ (Nat.lt_pow_two_of_testBit (n := 4) x.toNat fun i hi => ?_)
  by_cases h8 : i < 8
  · have hbit := h (7 - i) (by omega)
    rwa [show 7 - (7 - i) = i by omega] at hbit
  · exact BitVec.getLsbD_of_ge x i (not_lt.1 h8)

/-- Settles O37: the stream of the bytes is the bit string of the report, in which each field stands at its place. -/
theorem reportBytesHaveTheLayout : Obligations.ReportBytesHaveTheLayout := by
  rintro ack l s rfl
  have hs := streamBit_reportBytes ack l
  refine ⟨reportBytes_length ack l, ?firstByte, reportStream_of_lt_four hs (by decide), ?cpt, reportStream_ack hs,
    reportStream_headerE1 hs, fun k sn => reportStream_entry hs, fun p hp _ => reportStream_of_ge hs hp⟩
  case firstByte =>
    refine toNat_le_of_leading_zeros fun p hp => ?_
    have hbit := reportStream_of_lt_four hs hp
    rwa [streamBit, Nat.div_eq_of_lt (by omega), Nat.mod_eq_of_lt (by omega)] at hbit
  case cpt =>
    refine streamField_eq fun i hi => ?_
    rw [reportStream_of_lt_four hs (by omega)]
    simp

end Sys2Proof.Machine

/-! ## The response of an operation (`30_encoding.md` R73)

An operation ends in `respond`, `respondNat` or `raise`. The one failure whose `info` is not 0 or 1 is that of
D/C, and no reading of a report under the machine's configuration ends in it. -/

namespace Sys2Proof.Machine

/-! ### The reserved codes (R74, `60_exceptions.md` R168) -/

/-- Settles O31: both codes raise `IllegalOp` and do nothing else. -/
theorem reservedCodesAnswerIllegalOp : Obligations.ReservedCodesAnswerIllegalOp := fun _ => ⟨rfl, rfl, rfl⟩

/-! ### The failures of a reading (`43_deserialize.md` R156) -/

/-- The loop over the entries fails where an announced entry does not fit or the FIFO is full. -/
theorem readEntries_error {c : Config} {ibuf : Memory} {avail rounds : Nat} {sh : Shadow} {f : Failure}
    (h : readEntries c ibuf avail rounds sh = .ok (.error f)) : f = .malformed .trunc ∨ f = .full := by
  induction rounds generalizing sh with
  | zero =>
    unfold readEntries at h
    split at h
    · cases h
      exact .inl rfl
    · cases h
  | succ rounds ih =>
    unfold readEntries at h
    split at h
    · split at h
      · cases h
        exact .inl rfl
      · split at h
        · cases h
          exact .inr rfl
        · rw [readEntry_of_le (by omega)] at h
          exact ih h
    · cases h

/-- Without `STRICT_DC` the prologue does not fail on D/C (R148). -/
theorem readPrologue_error_ne_dc {c : Config} {ibuf : Memory} {avail : Nat} {f : Failure} (hc : c.strictDc = false)
    (h : readPrologue c ibuf avail = .ok (.error f)) : f ≠ .malformed .dc := by
  rw [readPrologue_eq] at h
  rintro rfl
  split at h
  · cases h
  · obtain ⟨hdc, -, -⟩ | ⟨-, -, e⟩ | ⟨-, -, e⟩ :=
      prologueCheck_cases c (streamField (streamBit ibuf) 0 1) (windowCpt ibuf)
    · simp [hc] at hdc
    · rw [e] at h
      cases h
    · rw [e] at h
      cases h

/-- Without `STRICT_DC` a reading does not fail on D/C. -/
theorem readReport_error_ne_dc {c : Config} {ibuf : Memory} {avail : Nat} {f : Failure} (hc : c.strictDc = false)
    (h : readReport c ibuf avail = .ok (.error f)) : f ≠ .malformed .dc := by
  unfold readReport at h
  split at h
  · cases h
  · rename_i hf
    cases h
    exact readPrologue_error_ne_dc hc hf
  · obtain rfl | rfl := readEntries_error h <;> decide

/-! ### The form of a response -/

/-- The form R73 gives a response of the machine: the status one of five, `res` for OK alone, `info` for
`MALFORMED` alone and then a sub-cause other than D/C. -/
def Response.Formed (r : Response) : Prop :=
  r.status.code.toNat ≤ 4 ∧ (r.status ≠ .ok → r.res = 0) ∧ (r.status ≠ .malformed → r.info = 0) ∧
    (r.status = .malformed → r.info = 0 ∨ r.info = 1)

/-- Every status has one of the five codes. -/
theorem Status.code_le (st : Status) : st.code.toNat ≤ 4 := by
  cases st <;> decide

theorem Response.formed_ok (v : Res) : (Response.mk .ok 0 v).Formed :=
  ⟨Status.code_le _, fun h => absurd rfl h, fun _ => rfl, nofun⟩

theorem Response.formed_failure {f : Failure} (h : f ≠ .malformed .dc) :
    (Response.mk f.status f.info 0).Formed := by
  refine ⟨Status.code_le _, fun _ => rfl, ?_, ?_⟩
  · cases f with
    | malformed c => exact fun hst => absurd rfl hst
    | _ => exact fun _ => rfl
  · cases f with
    | malformed c =>
      cases c with
      | trunc => exact fun _ => .inl rfl
      | cpt => exact fun _ => .inr rfl
      | dc => exact absurd rfl h
    | _ => exact nofun

/-- The outcome of an operation: a next state with a response of R73's form. -/
def Responds (o : Host.Outcome State Fault Refusal) : Prop :=
  ∃ t r, o = .next t ∧ t.rsp = some r ∧ r.Formed

theorem responds_respond (v : Res) (s : State) : Responds (.next (respond v s)) :=
  ⟨_, _, rfl, rfl, Response.formed_ok v⟩

theorem responds_respondNat (c : Config) (n : Nat) (s : State) : Responds (.next (respondNat c n s)) := by
  obtain ⟨v, hv⟩ := respondNat_rsp c n s
  exact ⟨_, _, rfl, hv, Response.formed_ok v⟩

theorem responds_raise {f : Failure} (h : f ≠ .malformed .dc) (s : State) : Responds (.next (raise f s)) :=
  ⟨_, _, rfl, rfl, Response.formed_failure h⟩

theorem responds_pushNack (c : Config) (opa : Raw) (s : State) : Responds (.next (pushNack c opa s)) := by
  obtain ⟨-, e⟩ | ⟨-, e⟩ := pushNack_cases c opa s <;> rw [e]
  · exact responds_raise (by decide) s
  · exact responds_respond _ _

theorem responds_popNack (c : Config) (s : State) : Responds (.next (popNack c s)) := by
  obtain ⟨-, e⟩ | ⟨v, rest, -, e⟩ := popNack_cases c s <;> rw [e]
  · exact responds_respond _ _
  · exact responds_respond _ _

theorem responds_serialize (c : Config) (opa : Raw) (s : State) : Responds (serialize c opa s) := by
  rw [serialize_eq]
  split
  · exact responds_raise (by decide) s
  · exact responds_respondNat _ _ _

theorem responds_deserialize {c : Config} (hc : c.strictDc = false) (opa : Raw) (s : State) :
    Responds (deserialize c opa s) := by
  obtain ⟨r, hr⟩ := readReport_ok c s.ibuf (byteCount opa)
  unfold deserialize
  rw [hr]
  cases r with
  | error f => exact responds_raise (readReport_error_ne_dc hc hr) s
  | ok sh => exact responds_respondNat _ _ _

/-- Settles O57: by the operation; each ends in a response of R73's form. -/
theorem everyOperationResponds : Obligations.EveryOperationResponds := by
  intro i s hi
  cases i with
  | snConstruct | snValue | snEquals | snInc | snCmp | srClear | srSetack | srGetack | srPrint =>
    exact responds_respond _ _
  | srPushnack opa => exact responds_pushNack cfg opa s
  | srPopnack => exact responds_popNack cfg s
  | srGetsize => exact responds_respondNat cfg _ s
  | srSerialize opa => exact responds_serialize cfg opa s
  | srDeserialize opa => exact responds_deserialize rfl opa s
  | reservedE | reservedF => exact responds_raise (by decide) s
  | statusPrologue | statusNackEntry | statusPadding => cases hi

end Sys2Proof.Machine

/-! ## Unit SN: operands and results (`00_scope.md` R9, `40_seqnum.md` R89 to R93) -/

namespace Sys2Proof.Machine

@[simp] theorem toNat_trunc10 (opa : Raw) : (trunc10 opa).toNat = opa % 1024 := BitVec.toNat_ofNat opa 10

/-- A slice is a given ten-bit value exactly when the reduced number is that value's. -/
theorem trunc10_eq_iff (opa : Raw) (v : SN) : trunc10 opa = v ↔ opa % 1024 = v.toNat := by
  rw [← BitVec.toNat_inj, toNat_trunc10]

@[simp] theorem zextRes_trunc10 (opa : Raw) : zextRes (trunc10 opa) = (opa % 1024 : Nat) :=
  congrArg Nat.cast (toNat_trunc10 opa)

/-- A ten-bit value on `res` is a non-negative integer (R91). -/
theorem zextRes_nonneg (v : SN) : 0 ≤ zextRes v := Int.natCast_nonneg _

/-- A ten-bit value on `res` is below 1024 (R91). -/
theorem zextRes_lt (v : SN) : zextRes v < 1024 := Int.ofNat_lt.mpr v.isLt

/-- A bus of at least ten wires has one residue modulo 1024, read as unsigned or as two's complement: the two readings
differ by a multiple of `2 ^ rawW`, which 1024 divides. -/
theorem toInt_emod_1024 {rawW : Nat} (h : 10 ≤ rawW) (bus : BitVec rawW) :
    bus.toInt % 1024 = (bus.toNat % 1024 : Nat) := by
  have hdvd : (1024 : Int) ∣ (2 ^ rawW : Nat) := Int.natCast_dvd_natCast.mpr (pow_dvd_pow 2 h)
  calc bus.toInt % 1024 = bus.toInt % (2 ^ rawW : Nat) % 1024 := (Int.emod_emod_of_dvd _ hdvd).symm
    _ = (bus.toNat : Int) % (2 ^ rawW : Nat) % 1024 := by rw [BitVec.toInt_eq_toNat_bmod, Int.bmod_emod]
    _ = (bus.toNat : Int) % 1024 := Int.emod_emod_of_dvd _ hdvd
    _ = (bus.toNat % 1024 : Nat) := (Int.natCast_mod _ _).symm

/-- Settles O14: the answer is the slice `opa[9:0]`, and on a bus both readings have its residue. -/
theorem constructReducesModulo1024 : Obligations.ConstructReducesModulo1024 := by
  intro opa s
  refine ⟨_, rfl, zextRes_trunc10 opa, fun rawW bus hw hbus => ?_⟩
  rw [zextRes_trunc10, toInt_emod_1024 hw, hbus]

/-- Settles O15: the answer is the slice `opa[9:0]`, a ten-bit value, by the same meaning as `SN.CONSTRUCT`. -/
theorem valueReadsTenBits : Obligations.ValueReadsTenBits :=
  fun opa _ => ⟨_, rfl, zextRes_trunc10 opa, zextRes_nonneg _, zextRes_lt _, rfl⟩

/-- Settles O16: two ten-bit values are compared, one of them the slice `opa[9:0]`. -/
theorem equalsComparesReducedValues : Obligations.EqualsComparesReducedValues := by
  intro opa opb s
  have hres : boolRes (trunc10 opa == opb) = if opa % 1024 = opb.toNat then 1 else 0 := by
    simp [boolRes, trunc10_eq_iff]
  rw [← hres]
  rfl

/-- Settles O17: ten-bit addition drops the carry. -/
theorem incrementWrapsModulo1024 : Obligations.IncrementWrapsModulo1024 := by
  intro opa s
  refine ⟨_, rfl, ?_⟩
  rw [zextRes, BitVec.toNat_add, toNat_trunc10]
  rfl

/-! ## The verdict of `SN.CMP` and its code (`40_seqnum.md` R94) -/

theorem verdictCode_nonneg (v : Verdict) : 0 ≤ verdictCode v := by
  cases v <;> decide

theorem verdictCode_le_three (v : Verdict) : verdictCode v ≤ 3 := by
  cases v <;> decide

theorem verdictCode_eq_zero_iff (v : Verdict) : verdictCode v = 0 ↔ v = .eq := by
  cases v <;> decide

/-- A tie is answered as a verdict on two different values (R7, `SN_TIE`). -/
theorem tieVerdict_ne_eq (tie : Tie) : tieVerdict tie ≠ .eq := by
  cases tie <;> decide

/-- Settles O18: the code is applied to `SN_ORDER` of the slice `opa[9:0]` and `opb`. -/
theorem compareAnswersTheVerdictCode : Obligations.CompareAnswersTheVerdictCode :=
  fun opa _ _ => ⟨trunc10 opa, _, toNat_trunc10 opa, rfl, rfl⟩

/-! ## The machine's open `SN_ORDER` and its sentinel (`40_seqnum.md` R96, `41_report_access.md` R114) -/

/-- The second value of the open pair lies 1 to 1023 forward of the first, so it is another one. -/
theorem snOrderPivot_ne_partner : Config.snOrderPivot ≠ snOrderPartner := by
  intro h
  have hgap := Config.snOrderPivotGap.isLt
  have hzero : BitVec.ofNat 10 (Config.snOrderPivotGap.val + 1) = 0#10 := BitVec.add_right_eq_self.mp h.symm
  have hmod : (Config.snOrderPivotGap.val + 1) % 1024 = 0 := congrArg BitVec.toNat hzero
  omega

/-- At the open pair the verdict is LT exactly when raw numeric order would not give LT. -/
theorem snOrderOpen_pivot_lt_iff :
    snOrderOpen Config.snOrderPivot snOrderPartner = .lt ↔ ¬ Config.snOrderPivot.toNat < snOrderPartner.toNat := by
  rw [snOrderOpen, if_neg snOrderPivot_ne_partner, if_pos ⟨rfl, rfl⟩]
  by_cases hlt : Config.snOrderPivot.toNat < snOrderPartner.toNat
  · cases Config.snOrderPivotGt <;> simp [hlt]
  · simp [hlt]

/-- R96, second constraint. -/
theorem snOrderOpen_eq_iff (a b : SN) : snOrderOpen a b = .eq ↔ a = b := by
  refine ⟨fun h => ?_, fun h => if_pos h⟩
  by_contra hab
  rw [snOrderOpen, if_neg hab] at h
  split at h
  · split at h
    · cases hgt : Config.snOrderPivotGt <;> simp [hgt] at h
    · cases h
  · exact tieVerdict_ne_eq _ h

/-- R96, third constraint: the open pair shows it. -/
theorem snOrderOpen_lt_ne_rawOrder : ¬ ∀ a b : SN, snOrderOpen a b = .lt ↔ a.toNat < b.toNat := fun h =>
  iff_not_self ((h _ _).symm.trans snOrderOpen_pivot_lt_iff)

/-- Settles O19: the answer is the code of the open verdict, which is EQ exactly on equal values. -/
theorem compareAnswersZeroExactlyOnEqualValues : Obligations.CompareAnswersZeroExactlyOnEqualValues := by
  intro opa opb
  refine ⟨verdictCode (snOrderOpen (trunc10 opa) opb), verdictCode_nonneg _, verdictCode_le_three _, ?_, fun _ => rfl⟩
  rw [verdictCode_eq_zero_iff, snOrderOpen_eq_iff, trunc10_eq_iff]

/-- The sentinel's sign bit is set, whatever the bits below it are. -/
theorem popSentinel_cfg_neg : cfg.popSentinel < 0 := by
  have hmsb : (BitVec.cons true Config.popSentinelLow).msb = true := BitVec.msb_cons
  rw [BitVec.msb_eq_toInt] at hmsb
  exact of_decide_eq_true hmsb

/-- Settles O20: the widths are the values taken, the sentinel is a negative word of 32 bits, and the open `SN_ORDER`
meets R96. -/
theorem machineConfigurationIsAdmissible : Obligations.MachineConfigurationIsAdmissible :=
  ⟨by decide, by decide, popSentinel_cfg_neg, BitVec.le_toInt _, snOrderOpen_eq_iff, snOrderOpen_lt_ne_rawOrder⟩

/-! ## `SN_ORDER_DEFAULT` (`40_seqnum.md` R95)

The forward distance from `a` to `b` is `(b - a).toNat`; off equality the two distances add up to 1024, so the order
goes by the comparison of one of them with 512. -/

theorem toNat_sub_eq_fwd (a b : SN) : (b - a).toNat = (b.toNat + 1024 - a.toNat) % 1024 := by
  rw [BitVec.toNat_sub', ← Nat.add_sub_assoc a.isLt.le]

theorem fwd_eq_zero_iff (a b : SN) : (b - a).toNat = 0 ↔ a = b := by
  have ha := a.isLt
  have hb := b.isLt
  rw [toNat_sub_eq_fwd, ← BitVec.toNat_inj]
  omega

/-- The two ways round the circle of 1024 values. -/
theorem fwd_add_bwd {a b : SN} (h : (b - a).toNat ≠ 0) : (b - a).toNat + (a - b).toNat = 1024 := by
  have ha := a.isLt
  have hb := b.isLt
  rw [toNat_sub_eq_fwd] at h
  rw [toNat_sub_eq_fwd, toNat_sub_eq_fwd]
  omega

section
variable (tie : Tie) {a b : SN}

/-- Row EQ. -/
@[simp] theorem snOrderDefault_self (a : SN) : snOrderDefault tie a a = .eq := by
  simp [snOrderDefault]

/-- Off equality the shorter way round is the one of less than 512. -/
theorem snOrderDefault_of_ne (h : (b - a).toNat ≠ 0) :
    snOrderDefault tie a b =
      if (b - a).toNat < 512 then .lt else if 512 < (b - a).toNat then .gt else tieVerdict tie := by
  have hsum := fwd_add_bwd h
  have hlt : (b - a).toNat < (a - b).toNat ↔ (b - a).toNat < 512 := by omega
  have hgt : (a - b).toNat < (b - a).toNat ↔ 512 < (b - a).toNat := by omega
  simp only [snOrderDefault, if_neg h, hlt, hgt]

/-- Row LT. -/
theorem snOrderDefault_of_fwd_lt (h0 : 1 ≤ (b - a).toNat) (h : (b - a).toNat ≤ 511) :
    snOrderDefault tie a b = .lt := by
  rw [snOrderDefault_of_ne tie (by omega), if_pos (by omega)]

/-- Row GT. -/
theorem snOrderDefault_of_fwd_gt (h : 513 ≤ (b - a).toNat) : snOrderDefault tie a b = .gt := by
  rw [snOrderDefault_of_ne tie (by omega), if_neg (by omega), if_pos (by omega)]

/-- Row of the tie. -/
theorem snOrderDefault_of_fwd_eq (h : (b - a).toNat = 512) : snOrderDefault tie a b = tieVerdict tie := by
  rw [snOrderDefault_of_ne tie (by omega), if_neg (by omega), if_neg (by omega)]

/-- The four rows cover every pair. -/
theorem snOrderDefault_cases (a b : SN) :
    (a = b ∧ snOrderDefault tie a b = .eq) ∨
    (1 ≤ (b - a).toNat ∧ (b - a).toNat ≤ 511 ∧ snOrderDefault tie a b = .lt) ∨
    (513 ≤ (b - a).toNat ∧ snOrderDefault tie a b = .gt) ∨
    ((b - a).toNat = 512 ∧ snOrderDefault tie a b = tieVerdict tie) := by
  by_cases h0 : (b - a).toNat = 0
  · obtain rfl := (fwd_eq_zero_iff a b).mp h0
    exact .inl ⟨rfl, snOrderDefault_self tie a⟩
  obtain h | h | h := Nat.lt_trichotomy (b - a).toNat 512
  · exact .inr (.inl ⟨by omega, by omega, snOrderDefault_of_fwd_lt tie (by omega) (by omega)⟩)
  · exact .inr (.inr (.inr ⟨h, snOrderDefault_of_fwd_eq tie h⟩))
  · exact .inr (.inr (.inl ⟨h, snOrderDefault_of_fwd_gt tie h⟩))

theorem snOrderDefault_eq_iff (a b : SN) : snOrderDefault tie a b = .eq ↔ a = b := by
  refine ⟨fun h => ?_, fun h => h ▸ snOrderDefault_self tie a⟩
  obtain ⟨hab, -⟩ | ⟨-, -, e⟩ | ⟨-, e⟩ | ⟨-, e⟩ := snOrderDefault_cases tie a b
  · exact hab
  · cases e.symm.trans h
  · cases e.symm.trans h
  · exact absurd (e.symm.trans h) (tieVerdict_ne_eq tie)

/-- Off the tie, LT one way round is GT the other way round. -/
theorem snOrderDefault_mirror (h : (b - a).toNat ≠ 512) :
    snOrderDefault tie a b = .lt ↔ snOrderDefault tie b a = .gt := by
  obtain ⟨rfl, -⟩ | ⟨h1, h2, e⟩ | ⟨h1, e⟩ | ⟨h1, -⟩ := snOrderDefault_cases tie a b
  · simp
  · have hsum := fwd_add_bwd (a := a) (b := b) (by omega)
    simp [e, snOrderDefault_of_fwd_gt tie (a := b) (b := a) (by omega)]
  · have hlt := (b - a).isLt
    have hsum := fwd_add_bwd (a := a) (b := b) (by omega)
    simp [e, snOrderDefault_of_fwd_lt tie (a := b) (b := a) (by omega) (by omega)]
  · exact absurd h1 h

/-- The increment lies one forward, also across the wrap. -/
theorem snOrderDefault_increment (a : SN) : snOrderDefault tie a (a + 1) = .lt := by
  have hfwd : (a + 1 - a).toNat = 1 := by rw [BitVec.add_comm, BitVec.add_sub_cancel]; rfl
  exact snOrderDefault_of_fwd_lt tie (by omega) (by omega)

theorem snOrderDefault_0_800 : snOrderDefault tie 0 800 = .gt := snOrderDefault_of_fwd_gt tie (by decide)

end

/-- Settles O21: the rows by the distance, the derived facts by the rows. -/
theorem defaultOrderGoesByForwardDistance : Obligations.DefaultOrderGoesByForwardDistance := by
  intro tie a b fwd hfwd
  rw [← toNat_sub_eq_fwd] at hfwd
  subst hfwd
  refine ⟨fun h => ?_, snOrderDefault_of_fwd_lt tie, snOrderDefault_of_fwd_gt tie, snOrderDefault_of_fwd_eq tie,
    snOrderDefault_mirror tie, snOrderDefault_increment tie a, snOrderDefault_of_fwd_lt tie (by decide) (by decide),
    snOrderDefault_of_fwd_lt tie (by decide) (by decide), snOrderDefault_0_800 tie⟩
  have hab := (fwd_eq_zero_iff a b).mp h
  exact ⟨hab, (snOrderDefault_eq_iff tie a b).mpr hab⟩

/-- Settles O22: R96 for the default order; 0 and 800 are in raw order and answered GT. -/
theorem defaultOrderIsAdmissible : Obligations.DefaultOrderIsAdmissible := by
  intro c hc hraw hres hneg hrep
  refine ⟨hraw, hres, hneg, hrep, ?_, ?_⟩ <;> rw [hc]
  · exact snOrderDefault_eq_iff c.snTie
  · intro h
    have hlt : snOrderDefault c.snTie 0 800 = .lt := (h 0 800).mpr (by decide)
    cases (snOrderDefault_0_800 c.snTie).symm.trans hlt

/-- `SN.CMP` under a configuration answers the code of its verdict (R94). -/
theorem execIn_snCmp {c : Config} {opa : Raw} {opb : SN} {v : Verdict} (h : c.snOrder (trunc10 opa) opb = v)
    (s : State) : execIn c (.snCmp opa opb) s = .next { s with rsp := some ⟨.ok, 0, verdictCode v⟩ } := by
  subst h
  rfl

/-- Settles O23: the rows of the default order, read through the code. -/
theorem compareUnderTheDefaultOrder : Obligations.CompareUnderTheDefaultOrder := by
  intro c hc opa opb s fwd hfwd
  rw [← toNat_trunc10 opa, ← toNat_sub_eq_fwd] at hfwd
  subst hfwd
  refine ⟨fun h1 h2 => execIn_snCmp (v := .lt) ?_ s, fun h => execIn_snCmp (v := .gt) ?_ s,
    fun h => execIn_snCmp ?_ s⟩ <;> rw [hc]
  · exact snOrderDefault_of_fwd_lt c.snTie h1 h2
  · exact snOrderDefault_of_fwd_gt c.snTie h
  · exact snOrderDefault_of_fwd_eq c.snTie h

end Sys2Proof.Machine

/-! ## Unit SR: construction and access (`41_report_access.md`)

Each operation ends in `respond` or `respondNat`, on the state with its update; a sequence of pushes or of pops is an
induction over its length with what one of them does to the FIFO. -/

namespace Sys2Proof.Machine

/-! ### The derived outputs (`10_state.md` R24) -/

theorem State.empty_eq_one_iff (s : State) : s.empty = 1 ↔ s.nack = [] := by
  cases h : s.nack <;> simp [State.empty, h]

theorem State.empty_eq_zero_iff (s : State) : s.empty = 0 ↔ s.nack ≠ [] := by
  cases h : s.nack <;> simp [State.empty, h]

/-! ### The operations without a branch (R110 to R112, R116) -/

/-- Settles O24: the context is overwritten with constants, so a second `SR.CLEAR` writes the same again. -/
theorem clearRestoresTheResetContext : Obligations.ClearRestoresTheResetContext :=
  fun _ => ⟨_, rfl, rfl, rfl, rfl, rfl⟩

/-- Settles O25: the value stored is the slice `opa[9:0]`. -/
theorem setAckOverwritesReducedValue : Obligations.SetAckOverwritesReducedValue :=
  fun opa _ => ⟨trunc10 opa, toNat_trunc10 opa, rfl⟩

/-- Settles O26: the result is the register, zero-extended. -/
theorem getAckReturnsTheRegister : Obligations.GetAckReturnsTheRegister :=
  fun s => ⟨zextRes s.ackSn, rfl, rfl⟩

/-- What `SR.PRINT` does: its items go to the end of the sink's trace (R116). -/
theorem exec_srPrint (s : State) :
    exec .srPrint s = .next (respond 0 { s with sink := s.sink ++ printItems s.ackSn s.nack }) := rfl

/-- Settles O30: the items are the ACK followed by the NACKs. -/
theorem printEmitsAckThenNacks : Obligations.PrintEmitsAckThenNacks := by
  refine ⟨rfl, rfl, fun s => ?_⟩
  rw [exec_srPrint, printItems, List.append_cons]
  rfl

/-! ### Pushes (R113, R117) -/

/-- A FIFO is full exactly at its depth; an unbounded one never is (`10_state.md` R23). -/
theorem fifoFull_iff (c : Config) (n : Nat) : fifoFull c n = true ↔ c.nackDepth = some n := by
  unfold fifoFull
  cases c.nackDepth with
  | none => simp
  | some depth => simpa using eq_comm

theorem pushNack_of_full {c : Config} {s : State} (h : c.nackDepth = some s.nack.length) (opa : Raw) :
    pushNack c opa s = raise .full s :=
  if_pos ((fifoFull_iff c _).mpr h)

theorem pushNack_of_not_full {c : Config} {s : State} (h : c.nackDepth ≠ some s.nack.length) (opa : Raw) :
    pushNack c opa s = respond 0 { s with nack := s.nack ++ [trunc10 opa] } :=
  if_neg (mt (fifoFull_iff c _).mp h)

/-- What `SR.PUSHNACK` does on the machine, whose FIFO is unbounded. -/
theorem exec_srPushnack (opa : Raw) (s : State) :
    exec (.srPushnack opa) s = .next (respond 0 { s with nack := s.nack ++ [trunc10 opa] }) :=
  congrArg Host.Outcome.next (pushNack_of_not_full (c := cfg) nofun opa)

/-- Settles O27: the branch is taken by the depth, and the machine's depth is `unbounded`. -/
theorem pushAppendsReducedValueOrIsFull : Obligations.PushAppendsReducedValueOrIsFull := by
  intro c opa s
  refine ⟨trunc10 opa, toNat_trunc10 opa, fun h => congrArg _ (pushNack_of_full h opa),
    fun h => congrArg _ (pushNack_of_not_full h opa), _, exec_srPushnack opa s, rfl, ?count, ?empty⟩
  case count => simp [State.count]
  case empty => exact (State.empty_eq_zero_iff _).mpr (by simp)

/-- Instructions in sequence: the rest runs from where the first ends. -/
theorem runInstrs_cons_of_next {i : Instr} {s t : State} (h : exec i s = .next t) (rest : List Instr) :
    runInstrs (i :: rest) s = runInstrs rest t := by
  simp only [runInstrs, h]

/-- Reducing before the slice changes nothing. -/
theorem ofNat_mod_eq_trunc10 (opa : Raw) : BitVec.ofNat 10 (opa % 1024) = trunc10 opa :=
  ((trunc10_eq_iff opa _).mpr (by simp)).symm

/-- Settles O32: by induction on the list; each push appends one value. -/
theorem pushesAppendInOrder : Obligations.PushesAppendInOrder := by
  intro raws
  induction raws with
  | nil => exact fun s => ⟨s, rfl, by simp, rfl⟩
  | cons raw raws ih =>
    intro s
    obtain ⟨t, hrun, hnack, hack⟩ := ih (respond 0 { s with nack := s.nack ++ [trunc10 raw] })
    refine ⟨t, (runInstrs_cons_of_next (exec_srPushnack raw s) _).trans hrun, ?_, hack⟩
    simp [hnack, ofNat_mod_eq_trunc10]

/-! ### Pops (R114, R117) -/

/-- What `SR.POPNACK` does on the machine. -/
theorem exec_srPopnack (s : State) : exec .srPopnack s = .next (popNack cfg s) := rfl

theorem popNack_of_nil {c : Config} {s : State} (h : s.nack = []) : popNack c s = respond c.popSentinel s := by
  simp only [popNack, h]

theorem popNack_of_cons {c : Config} {s : State} {sn : SN} {rest : List SN} (h : s.nack = sn :: rest) :
    popNack c s = respond (zextRes sn) { s with nack := rest } := by
  simp only [popNack, h]

/-- In both arms the head is gone, where there was one. -/
@[simp] theorem popNack_nack (c : Config) (s : State) : (popNack c s).nack = s.nack.tail := by
  obtain ⟨h, e⟩ | ⟨_, _, h, e⟩ := popNack_cases c s <;> simp [e, h]

@[simp] theorem popNack_ackSn (c : Config) (s : State) : (popNack c s).ackSn = s.ackSn := by
  obtain ⟨_, _, e⟩ := popNack_frame c s
  rw [e]

/-- Settles O28: the two arms of a pop. -/
theorem popReturnsTheHeadOrANegativeValue : Obligations.PopReturnsTheHeadOrANegativeValue := by
  refine fun s => ⟨fun h => ⟨popSentinel_cfg_neg, congrArg _ (popNack_of_nil h)⟩, fun sn rest h => ?_⟩
  refine ⟨zextRes sn, popNack cfg s, rfl, exec_srPopnack s, popNack_of_cons h, ?count, ?empty⟩
  case count => simp [State.count, h]
  case empty => rw [State.empty_eq_one_iff, popNack_nack, h, List.tail_cons]

/-- A run of pops removes the first entries and nothing else of the context. -/
theorem runInstrs_pops (k : Nat) (s : State) :
    ∃ t, runInstrs (List.replicate k .srPopnack) s = some t ∧ t.nack = s.nack.drop k ∧ t.ackSn = s.ackSn := by
  induction k generalizing s with
  | zero => exact ⟨s, rfl, rfl, rfl⟩
  | succ k ih =>
    obtain ⟨t, hrun, hnack, hack⟩ := ih (popNack cfg s)
    exact ⟨t, (runInstrs_cons_of_next (exec_srPopnack s) _).trans hrun, by simpa using hnack, by simpa using hack⟩

/-- Settles O33: after the run of pops the head of what is left is entry `k` of the FIFO, where there is one. -/
theorem popsReturnOldestFirst : Obligations.PopsReturnOldestFirst := by
  intro k s
  obtain ⟨t, hrun, hnack, hack⟩ := runInstrs_pops k s
  have hhead : s.nack[k]? = t.nack.head? := by rw [hnack, List.head?_drop]
  refine ⟨t, hrun, hnack, hack, popNack cfg t, ?_⟩
  obtain ⟨h, e⟩ | ⟨sn, rest, h, e⟩ := popNack_cases cfg t <;> rw [h] at hhead
  · refine ⟨_, exec_srPopnack t, congrArg State.rsp e, rfl, fun v hv => ?_, fun _ => popSentinel_cfg_neg⟩
    cases hhead.symm.trans hv
  · refine ⟨_, exec_srPopnack t, congrArg State.rsp e, rfl, fun v hv => ?_, fun hk => ?_⟩
    · cases hhead.symm.trans hv
      rfl
    · cases hhead.symm.trans (List.getElem?_eq_none hk)

/-! ### The size of a report on `res` (R115) -/

/-- R115's bound: up to it the size fits the machine's `res`. -/
theorem reportSize_lt_cfg_iff (n : Nat) : reportSize n < 2 ^ (cfg.resW - 1) ↔ n ≤ 1431655763 := by
  have hres : 2 ^ (cfg.resW - 1) = 2147483648 := rfl
  rw [hres, reportSize]
  omega

/-- Settles O29: the size is the least that holds the bits, and it is the answer where it fits. -/
theorem getSizeCountsTheBytes : Obligations.GetSizeCountsTheBytes := by
  intro s
  obtain ⟨hlow, hhigh⟩ := reportSize_bounds s.nack.length
  have hsize (c : Config) (h : reportSize s.nack.length < 2 ^ (c.resW - 1)) :
      execIn c .srGetsize s = .next { s with rsp := some ⟨.ok, 0, reportSize s.nack.length⟩ } :=
    congrArg _ (respondNat_of_lt h s)
  refine ⟨reportSize s.nack.length, rfl, by omega, hlow, fun h => ?_, hsize⟩
  rw [← execIn_cfg]
  exact hsize cfg ((reportSize_lt_cfg_iff _).mpr h)

end Sys2Proof.Machine

/-! ## The reading of an accepted report (`43_deserialize.md` R147, R155)

The shadow behind `k` entries holds what the window has there; one round of the loop takes it to the shadow behind
`k + 1`, and an accepted window makes the loop end at the announced number of entries. -/

namespace Sys2Proof.Machine

/-- The last E1 in the window in front of entry `k`: that of the header, or that of the entry before. -/
def windowE1 (m : Memory) : Nat → Flag
  | 0 => streamField (streamBit m) 14 1
  | k + 1 => streamField (streamBit m) (25 + 12 * k) 1

/-- The shadow behind the prologue and the first `k` entries of the window. -/
def windowShadow (m : Memory) (k : Nat) : Shadow := ⟨15 + 12 * k, windowAck m, windowE1 m k, windowNacks m k⟩

/-- A field of one bit is set where its bit is. -/
theorem streamField_one_eq_one_iff (stream : Nat → Bool) (p : Nat) : streamField stream p 1 = 1 ↔ stream p = true := by
  rw [streamField, streamField]
  cases stream p <;> decide

/-- The E1 chain of an announced report is set up to the last entry and ends there (`30_encoding.md` R65). -/
theorem Announces.windowE1_eq_one_iff {m : Memory} {n k : Nat} (h : Announces m n) (hk : k ≤ n) :
    windowE1 m k = 1 ↔ k < n := by
  obtain ⟨hheader, hentry⟩ := h
  cases k with
  | zero => rw [windowE1, streamField_one_eq_one_iff, hheader, decide_eq_true_iff]
  | succ k => rw [windowE1, streamField_one_eq_one_iff, hentry k hk, decide_eq_true_iff]

theorem windowNacks_succ (m : Memory) (k : Nat) :
    windowNacks m (k + 1) = windowNacks m k ++ [streamField (streamBit m) (15 + 12 * k) 10] := by
  simp [windowNacks, List.range_succ]

@[simp] theorem windowNacks_length (m : Memory) (k : Nat) : (windowNacks m k).length = k := by simp [windowNacks]

/-- One entry read takes the shadow behind `k` entries to the one behind `k + 1`. -/
theorem readEntry_windowShadow {m : Memory} {avail k : Nat} (h : 15 + 12 * (k + 1) ≤ 8 * avail) :
    readEntry m avail (windowShadow m k) = .ok (windowShadow m (k + 1)) := by
  have hpos : 15 + 12 * k + 10 = 25 + 12 * k := by omega
  rw [readEntry_of_le h]
  simp only [windowShadow, Shadow.push, windowE1, windowNacks_succ, hpos]
  rfl

/-- From the shadow behind `k` entries the loop reads the announced rest, as long as rounds are left for it, it lies
in the window and the FIFO takes it. -/
theorem readEntries_windowShadow {c : Config} {m : Memory} {avail n : Nat} (hn : Announces m n)
    (hroom : 15 + 12 * n ≤ 8 * avail) (hfifo : ∀ k, k < n → fifoFull c k = false) (rounds k : Nat) (hk : k ≤ n)
    (hrounds : n ≤ k + rounds) :
    readEntries c m avail rounds (windowShadow m k) = .ok (.ok (windowShadow m n)) := by
  have he1 : (windowShadow m k).e1 = 1 ↔ k < n := hn.windowE1_eq_one_iff hk
  induction rounds generalizing k with
  | zero =>
    obtain rfl : k = n := by omega
    rw [readEntries, if_neg (mt he1.mp (lt_irrefl k))]
  | succ rounds ih =>
    obtain hlt | rfl := Nat.lt_or_eq_of_le hk
    · have hpos : ¬ 8 * avail < (windowShadow m k).pos + 12 := by simp only [windowShadow]; omega
      have hfull : ¬ fifoFull c (windowShadow m k).nack.length = true := by simp [windowShadow, hfifo k hlt]
      rw [readEntries, if_pos (he1.mpr hlt), if_neg hpos, if_neg hfull, readEntry_windowShadow (by omega)]
      exact ih (k + 1) hlt (by omega) (hn.windowE1_eq_one_iff hlt)
    · rw [readEntries, if_neg (mt he1.mp (lt_irrefl k))]

/-- An accepted report is read as a whole (R155), where D/C is not checked and the FIFO takes its entries. -/
theorem readReport_of_accepts {c : Config} {m : Memory} {avail n : Nat} (h : Accepts m avail n)
    (hdc : c.strictDc = false) (hfifo : ∀ k, k < n → fifoFull c k = false) :
    readReport c m avail = .ok (.ok (windowShadow m n)) := by
  obtain ⟨hroom, hcpt, hn⟩ := h
  have hprologue : readPrologue c m avail = .ok (.ok (windowShadow m 0)) := by
    have hcheck : prologueCheck c (streamField (streamBit m) 0 1) (windowCpt m) = none := by
      simp [prologueCheck, hdc, hcpt]
    rw [readPrologue_eq, if_neg (by omega), hcheck]
    rfl
  rw [readReport, hprologue]
  exact readEntries_windowShadow hn hroom hfifo _ 0 (Nat.zero_le n) (by omega)

/-- `consumed` is the size of the report read (R152). -/
theorem windowShadow_consumed (m : Memory) (n : Nat) : (windowShadow m n).consumed = reportSize n := by
  simp only [windowShadow, Shadow.consumed, reportSize]
  omega

/-- What `SR.DESERIALIZE` does with an accepted report, whatever its size (R147, R152, R153). -/
theorem exec_srDeserialize_of_accepts {opa : Raw} {s : State} {n : Nat} (h : Accepts s.ibuf opa n) :
    exec (.srDeserialize opa) s =
      .next (respondNat cfg (reportSize n) (setContext (windowAck s.ibuf) (windowNacks s.ibuf n) s)) := by
  have hread : readReport cfg s.ibuf (byteCount opa) = .ok (.ok (windowShadow s.ibuf n)) :=
    readReport_of_accepts h rfl fun k _ => fifoFull_cfg k
  rw [exec, execSrDeserialize, deserialize, hread, ← windowShadow_consumed s.ibuf n]
  rfl

end Sys2Proof.Machine

/-! ## A result that does not fit `res` (log entry 11) -/

namespace Sys2Proof.Machine

/-- Bytes stored from offset 0 read back. -/
theorem Memory.read_writeAll_of_getElem? {m : Memory} (hm : Memory.wf m) {bytes : List Byte} {a : Nat} {b : Byte}
    (h : bytes[a]? = some b) : Memory.read (Memory.writeAll m 0 bytes) a = b := by
  obtain ⟨ha, rfl⟩ := List.getElem?_eq_some_iff.mp h
  rw [Memory.read_writeAll hm, if_pos (by omega)]
  simp [ha]

/-- Behind bytes stored from offset 0 a window is as before. -/
theorem Memory.read_writeAll_of_ge {m : Memory} (hm : Memory.wf m) {bytes : List Byte} {a : Nat}
    (h : bytes.length ≤ a) : Memory.read (Memory.writeAll m 0 bytes) a = Memory.read m a := by
  rw [Memory.read_writeAll hm, if_neg (by omega)]

/-- What `SR.SERIALIZE` does in a window that holds the report, whatever its size (`42_serialize.md` R134). -/
theorem exec_srSerialize_of_le {opa : Raw} {s : State} (h : reportSize s.nack.length ≤ opa) :
    exec (.srSerialize opa) s = .next (respondNat cfg (reportSize s.nack.length)
      { s with obuf := Memory.writeAll s.obuf 0 (reportBytes s.ackSn s.nack) }) :=
  (serialize_eq cfg opa s).trans (if_neg (not_lt.mpr h))

/-- Beyond R115's bound a size is answered with some value, and the draw is counted. -/
theorem respondNat_reportSize_of_gt {n : Nat} (h : 1431655763 < n) (s : State) :
    ∃ v, respondNat cfg (reportSize n) s = { s with rsp := some ⟨.ok, 0, v⟩, draws := s.draws + 1 } :=
  ⟨_, respondNat_of_ge (mt (reportSize_lt_cfg_iff n).mp (not_le.mpr h)) s⟩

/-- Settles O51: each of the three operations ends in the answer of a size, which is free beyond R115's bound. -/
theorem resultsTooWideStillComplete : Obligations.ResultsTooWideStillComplete := by
  intro opa s n hn
  refine ⟨?getsize, ?serialize, ?deserialize⟩
  case getsize =>
    rintro rfl
    obtain ⟨v, hv⟩ := respondNat_reportSize_of_gt hn s
    exact ⟨v, congrArg _ hv⟩
  case serialize =>
    rintro rfl hsize hwf
    obtain ⟨v, hv⟩ := respondNat_reportSize_of_gt hn
      { s with obuf := Memory.writeAll s.obuf 0 (reportBytes s.ackSn s.nack) }
    refine ⟨_, v, (exec_srSerialize_of_le hsize).trans (congrArg _ hv),
      fun a b => Memory.read_writeAll_of_getElem? hwf, fun a ha => Memory.read_writeAll_of_ge hwf ?_⟩
    rwa [reportBytes_length]
  case deserialize =>
    intro haccepts
    obtain ⟨v, hv⟩ := respondNat_reportSize_of_gt hn (setContext (windowAck s.ibuf) (windowNacks s.ibuf n) s)
    exact ⟨v, (exec_srDeserialize_of_accepts haccepts).trans (congrArg _ hv)⟩

end Sys2Proof.Machine

/-! ## The encoder's three writings of a report (`42_serialize.md`)

The bytes of a report (R131) are the stream of its bits cut into bytes. The bit writer (R132, R133) holds at every
moment that stream as far as it has been written; the byte-level view (R137) is each byte of it, put together from
the fields that reach into the byte. -/

namespace Sys2Proof.Machine

/-! ### The bit writer (R132, R133) -/

/-- A bit string, and zeros behind it, as an image of `size` bytes (R131: first bit in bit 7). -/
def bitsImage (size : Nat) (bits : List Bool) : List Byte :=
  (List.range size).map fun i => streamField (fun p => bits.getD p false) (8 * i) 8

/-- The writer that has written these bits. -/
def Writer.ofBits (size : Nat) (bits : List Bool) : Writer := ⟨bits.length, bitsImage size bits⟩

/-- The image of a report's bits is its bytes: the padding is zero. -/
theorem bitsImage_reportBits (ack : SN) (l : List SN) :
    bitsImage (reportSize l.length) (reportBits ack l) = reportBytes ack l := by
  simp only [bitsImage, reportBytes, paddedBits_getD]

/-- A fresh writer has written nothing. -/
theorem Writer.start_eq_ofBits (size : Nat) : Writer.start size = Writer.ofBits size [] := by
  have hzero (i : Nat) : streamField (fun p => ([] : List Bool).getD p false) (8 * i) 8 = 0 :=
    streamField_eq fun k _ => by simp
  simp only [Writer.start, Writer.ofBits, bitsImage, hzero, List.map_const', List.length_range, List.length_nil]

/-- Setting a bit, counted from the most significant end, changes that bit alone. -/
theorem setBit_getMsbD (x : Byte) (b : Bool) {k i : Nat} (hk : k < 8) (hi : i < 8) :
    (setBit x (7 - k) b).getMsbD i = if i = k then b else x.getMsbD i := by
  have hmask : (1#8 <<< (7 - k)).getMsbD i = decide (i = k) := by
    rw [BitVec.getMsbD_shiftLeft, BitVec.getMsbD_one, Bool.eq_iff_iff, Bool.and_eq_true, decide_eq_true_iff,
      decide_eq_true_iff, decide_eq_true_iff]
    omega
  by_cases h : i = k
  · rw [decide_eq_true h] at hmask
    rw [if_pos h]
    cases b <;> simp [setBit, hmask, hi]
  · rw [decide_eq_false h] at hmask
    rw [if_neg h]
    cases b <;> simp [setBit, hmask, hi]

/-- A bit appended to a string changes the stream at the end of the string alone. -/
theorem getD_append_bit (bits : List Bool) (b : Bool) (p : Nat) :
    (bits ++ [b]).getD p false = if p = bits.length then b else bits.getD p false := by
  obtain h | rfl | h := Nat.lt_trichotomy p bits.length
  · rw [List.getD_append _ _ _ _ h, if_neg (by omega)]
  · simp
  · rw [List.getD_eq_default _ _ (by simp; omega), if_neg (by omega), List.getD_eq_default _ _ (by omega)]

/-- Byte `i` of the stream when a bit is appended: the byte that holds the cursor has that bit set, any other byte is
as before. -/
theorem streamField_append_bit (bits : List Bool) (b : Bool) (i : Nat) :
    streamField (fun p => (bits ++ [b]).getD p false) (8 * i) 8 =
      if bits.length / 8 = i then setBit (streamField (fun p => bits.getD p false) (8 * i) 8) (7 - bits.length % 8) b
      else streamField (fun p => bits.getD p false) (8 * i) 8 := by
  refine streamField_eq fun k hk => ?_
  rw [getD_append_bit]
  split_ifs with hend hbyte hbyte
  · rw [setBit_getMsbD _ _ (Nat.mod_lt _ (by decide)) hk, if_pos (by omega)]
  · omega
  · rw [setBit_getMsbD _ _ (Nat.mod_lt _ (by decide)) hk, if_neg (by omega), streamField_getMsbD]
    simp [hk]
  · rw [streamField_getMsbD]
    simp [hk]

/-- One bit written. -/
theorem Writer.ofBits_putBit (size : Nat) (bits : List Bool) (b : Bool) :
    (Writer.ofBits size bits).putBit b = Writer.ofBits size (bits ++ [b]) := by
  have himg : (bitsImage size bits).modify (bits.length / 8) (fun x => setBit x (7 - bits.length % 8) b) =
      bitsImage size (bits ++ [b]) := by
    refine List.ext_getElem (by simp [bitsImage]) fun i _ _ => ?_
    simp only [bitsImage, List.getElem_modify, List.getElem_map, List.getElem_range, streamField_append_bit]
  simp only [Writer.putBit, Writer.ofBits, himg, List.length_append, List.length_singleton]

/-- `PutBits` writes the bits of its field. -/
theorem Writer.ofBits_putBits (size : Nat) (bits : List Bool) {n : Nat} (v : BitVec n) :
    (Writer.ofBits size bits).putBits v = Writer.ofBits size (bits ++ fieldBits v) := by
  rw [Writer.putBits]
  induction fieldBits v generalizing bits with
  | nil => simp
  | cons b rest ih => rw [List.foldl_cons, Writer.ofBits_putBit, ih, List.append_assoc, List.singleton_append]

@[simp] theorem fieldBits_flagOf (b : Bool) : fieldBits (flagOf b) = [b] := by
  cases b <;> rfl

/-- The calls for the entries write the bits of the entries. -/
theorem Writer.ofBits_putEntries (size : Nat) (bits : List Bool) (l : List SN) :
    (Writer.ofBits size bits).putEntries l = Writer.ofBits size (bits ++ entriesBits l) := by
  have he2 : fieldBits (0 : Flag) = [false] := rfl
  induction l generalizing bits with
  | nil => simp [Writer.putEntries, entriesBits]
  | cons v rest ih =>
    rw [Writer.putEntries, Writer.ofBits_putBits, Writer.ofBits_putBits, Writer.ofBits_putBits, ih,
      fieldBits_flagOf, he2, entriesBits]
    simp only [List.append_assoc]

/-- The calls of one serialization write the bits of the report. -/
theorem Writer.putReport_eq_ofBits (ack : SN) (l : List SN) :
    Writer.putReport ack l = Writer.ofBits (reportSize l.length) (reportBits ack l) := by
  have hdc : fieldBits (0 : Flag) = [false] := rfl
  have hcpt : fieldBits (0 : BitVec 3) = [false, false, false] := rfl
  rw [Writer.putReport, Writer.start_eq_ofBits, Writer.ofBits_putBits, Writer.ofBits_putBits, Writer.ofBits_putBits,
    Writer.ofBits_putBits, Writer.ofBits_putEntries, hdc, hcpt, fieldBits_flagOf, List.nil_append, reportBits]

/-- Settles O38: the writer has written the bits of the report, whose image is its bytes. -/
theorem bitWriterWritesTheReport : Obligations.BitWriterWritesTheReport := by
  intro ack l
  rw [Writer.putReport_eq_ofBits]
  exact ⟨bitsImage_reportBits ack l, reportBits_length ack l⟩

/-! ### The byte-level view (R137) -/

/-- Two fields side by side in a stream are one field. -/
theorem streamField_append {stream : Nat → Bool} {p m n : Nat} {v : BitVec m} {w : BitVec n}
    (hv : streamField stream p m = v) (hw : streamField stream (p + m) n = w) :
    streamField stream p (m + n) = v ++ w := by
  subst hv hw
  refine streamField_eq fun i hi => ?_
  rw [BitVec.getMsbD_append]
  split_ifs with h
  · have hpos : p + m + (i - m) = p + i := by omega
    have hlt : i - m < n := by omega
    simp [streamField_getMsbD, hpos, hlt]
  · simp [streamField_getMsbD, not_le.1 h]

/-- A part of a field that stands in a stream at `p`: its `m` bits at `q`, with `low` bits of the field behind them. -/
theorem streamField_extractLsb' {stream : Nat → Bool} {p q n m low : Nat} {v : BitVec n}
    (hv : streamField stream p n = v) (hpq : p ≤ q) (hend : q + m + low = p + n) :
    streamField stream q m = v.extractLsb' low m := by
  subst hv
  refine streamField_eq fun k hk => ?_
  have hpos : p + (n - (low + m - k)) = q + k := by omega
  have hin : low + m - k ≤ n := by omega
  have hlt : n - (low + m - k) < n := by omega
  simp [BitVec.getMsbD_extractLsb', streamField_getMsbD, hk, hin, hlt, hpos]

/-- A field of one bit is its bit. -/
theorem streamField_one (stream : Nat → Bool) (p : Nat) : streamField stream p 1 = flagOf (stream p) := by
  rw [streamField, streamField]
  cases stream p <;> rfl

section Stream
variable {ack : SN} {l : List SN} {s : Nat → Bool} (hs : ∀ p, s p = (reportBits ack l).getD p false)
include hs

/-- The stream at `15 + 12 k`, whether there is an entry `k` or not: NACK_SN. -/
theorem reportStream_nackOr0 (k : Nat) : streamField s (15 + 12 * k) 10 = nackOr0 l k := by
  rw [nackOr0]
  by_cases hk : k < l.length
  · obtain ⟨hsn, -, -⟩ := reportStream_entry hs (List.getElem?_eq_getElem hk)
    simpa [hk] using hsn
  · rw [List.getD_eq_default _ _ (not_lt.1 hk)]
    exact streamField_eq fun i _ => by rw [reportStream_of_ge hs (by omega)]; simp

/-- The stream at `25 + 12 k`, whether there is an entry `k` or not: E1. -/
theorem reportStream_entryE1 (k : Nat) : streamField s (25 + 12 * k) 1 = entryE1 l k := by
  rw [streamField_one, entryE1]
  by_cases hk : k < l.length
  · obtain ⟨-, he1, -⟩ := reportStream_entry hs (List.getElem?_eq_getElem hk)
    rw [he1]
  · rw [reportStream_of_ge hs (by omega), decide_eq_false (by omega)]

/-- The stream at `26 + 12 k`, whether there is an entry `k` or not: E2, which is zero. -/
theorem reportStream_entryE2 (k : Nat) : streamField s (26 + 12 * k) 1 = 0#1 := by
  refine (streamField_one s _).trans (congrArg flagOf (?_ : _ = false))
  by_cases hk : k < l.length
  · obtain ⟨-, -, he2⟩ := reportStream_entry hs (List.getElem?_eq_getElem hk)
    exact he2
  · exact reportStream_of_ge hs (by omega)

/-- A stretch of the stream from the last `a` bits of entry `k`'s NACK_SN to the first `b` of the next one's. -/
theorem reportStream_across_entries {k p a b : Nat} (hp : p + a = 25 + 12 * k) (ha : a ≤ 10) (hb : b ≤ 10) :
    streamField s p (a + 1 + 1 + b) =
      (nackOr0 l k).extractLsb' 0 a ++ entryE1 l k ++ 0#1 ++ (nackOr0 l (k + 1)).extractLsb' (10 - b) b := by
  refine streamField_append (streamField_append (streamField_append ?sn ?e1) ?e2) ?next
  case sn => exact streamField_extractLsb' (reportStream_nackOr0 hs k) (by omega) (by omega)
  case e1 =>
    rw [hp]
    exact reportStream_entryE1 hs k
  case e2 =>
    rw [show p + (a + 1) = 26 + 12 * k by omega]
    exact reportStream_entryE2 hs k
  case next => exact streamField_extractLsb' (reportStream_nackOr0 hs (k + 1)) (by omega) (by omega)

/-- Byte 0: D/C, CPT and the first four bits of ACK_SN. -/
theorem reportStream_viewByte_zero : streamField s 0 8 = viewByte ack l 0 := by
  have hzero : streamField s 0 4 = 0#4 := streamField_eq fun i hi => by
    rw [reportStream_of_lt_four hs (by omega)]
    simp
  exact streamField_append (m := 4) (n := 4) hzero
    (streamField_extractLsb' (reportStream_ack hs) (by decide) (by decide))

/-- Byte 1: the rest of ACK_SN, the header's E1 and the first bit of entry 0. -/
theorem reportStream_viewByte_one : streamField s 8 8 = viewByte ack l 1 := by
  have he1 : streamField s 14 1 = flagOf (!l.isEmpty) := by
    rw [streamField_one, reportStream_headerE1 hs]
    cases l <;> simp
  exact streamField_append (m := 7) (n := 1)
    (streamField_append (m := 6) (n := 1)
      (streamField_extractLsb' (reportStream_ack hs) (by decide) (by decide)) he1)
    (streamField_extractLsb' (reportStream_nackOr0 hs 0) (by decide) (by decide))

/-- The byte at every later offset, by its place in the three-byte pattern: within entry `2 j`, across the end of entry
`2 j`, across the end of entry `2 j + 1`. -/
theorem reportStream_viewByte_add_two (i : Nat) : streamField s (8 * (i + 2)) 8 = viewByte ack l (i + 2) := by
  obtain h | h | h : i % 3 = 0 ∨ i % 3 = 1 ∨ i % 3 = 2 := by omega
  all_goals simp only [viewByte, h]
  · exact streamField_extractLsb' (reportStream_nackOr0 hs _) (by omega) (by omega)
  · exact reportStream_across_entries hs (a := 1) (b := 5) (by omega) (by decide) (by decide)
  · exact reportStream_across_entries hs (a := 5) (b := 1) (by omega) (by decide) (by decide)

end Stream

/-- The stream of a report's bits, cut at a byte, is the byte-level view. -/
theorem reportBytes_getD_eq_viewByte (ack : SN) (l : List SN) (i : Nat) :
    (reportBytes ack l).getD i 0 = viewByte ack l i := by
  rw [reportBytes_getD]
  match i with
  | 0 => exact reportStream_viewByte_zero fun _ => rfl
  | 1 => exact reportStream_viewByte_one fun _ => rfl
  | i + 2 => exact reportStream_viewByte_add_two (fun _ => rfl) i

/-- Settles O39: each byte of the stream is put together from the fields that reach into it. -/
theorem byteViewIsTheReport : Obligations.ByteViewIsTheReport := by
  intro ack l i hi
  rw [← reportBytes_getD_eq_viewByte]
  simp [hi]

/-! ### Injectivity (R136) -/

/-- The size tells the number of entries: each entry makes the report longer. -/
theorem reportSize_injective : Function.Injective reportSize := by
  intro m n h
  unfold reportSize at h
  omega

/-- Settles O40: equal bytes have equal lengths, so equal numbers of entries, and are one stream, in which each field
stands at its place. -/
theorem differentContextsGiveDifferentBytes : Obligations.DifferentContextsGiveDifferentBytes := by
  intro ack ack' l l' h
  have hlen : l.length = l'.length := reportSize_injective (by simpa using congrArg List.length h)
  have hs := streamBit_reportBytes ack l
  have hs' := streamBit_reportBytes ack' l'
  rw [← h] at hs'
  refine ⟨(reportStream_ack hs).symm.trans (reportStream_ack hs'), List.ext_getElem hlen fun k hk hk' => ?_⟩
  obtain ⟨hsn, -, -⟩ := reportStream_entry hs (List.getElem?_eq_getElem hk)
  obtain ⟨hsn', -, -⟩ := reportStream_entry hs' (List.getElem?_eq_getElem hk')
  exact hsn.symm.trans hsn'

/-! ### `SR.SERIALIZE` (R134, R135) -/

/-- Settles O41: the capacity decides between the two outcomes; up to R115's bound the size is the answer. -/
theorem serializeWritesTheReportOrNothing : Obligations.SerializeWritesTheReportOrNothing := by
  intro opa s
  refine ⟨fun hcap => (serialize_eq cfg opa s).trans (if_pos hcap), fun hwf hcap hfits => ?_⟩
  refine ⟨_, _, (exec_srSerialize_of_le hcap).trans (congrArg _ (respondNat_of_lt ?size _)), rfl,
    fun a b => Memory.read_writeAll_of_getElem? hwf, fun a ha => Memory.read_writeAll_of_ge hwf ?behind⟩
  case size => exact (reportSize_lt_cfg_iff _).mpr hfits
  case behind => rwa [reportBytes_length]

end Sys2Proof.Machine

/-! ## The decoder (`43_deserialize.md`)

The bit reader, the checks of the prologue, what `SR.DESERIALIZE` does with an input it accepts and with any other,
and which bits of a window it depends on. -/

namespace Sys2Proof.Machine

/-! ### The bit reader (R145, R146) -/

/-- A field is the sum of its stream bits, the first the heaviest. -/
theorem streamField_toNat (stream : Nat → Bool) (p n : Nat) :
    (streamField stream p n).toNat = ∑ i ∈ Finset.range n, (stream (p + i)).toNat * 2 ^ (n - 1 - i) := by
  induction n generalizing p with
  | zero => rfl
  | succ n ih =>
    have htail (i : Nat) : (stream (p + (i + 1))).toNat * 2 ^ (n + 1 - 1 - (i + 1)) =
        (stream (p + 1 + i)).toNat * 2 ^ (n - 1 - i) := by
      rw [show p + (i + 1) = p + 1 + i by omega, show n + 1 - 1 - (i + 1) = n - 1 - i by omega]
    rw [streamField, BitVec.toNat_cons', ih, Finset.sum_range_succ', Finset.sum_congr rfl fun i _ => htail i,
      Nat.shiftLeft_eq, Nat.add_comm]
    rfl

/-- A bit behind the window is not read: the bound check answers its fault (`20_memory.md` R43). -/
theorem getBit_of_ge {ibuf : Memory} {avail p : Nat} (h : 8 * avail ≤ p) :
    getBit ibuf avail p = .error (.ibufOutOfWindow (p / 8)) := by
  have hp : ¬ p / 8 < avail := by omega
  simp [getBit, memRead, hp]

/-- A field that reaches past the window ends in the fault of its first byte behind the window. -/
theorem getBits_of_gt {ibuf : Memory} {avail p n : Nat} (hend : 8 * avail < p + n) (hn : 0 < n) :
    ∃ a, getBits ibuf avail p n = .error (.ibufOutOfWindow a) ∧ avail ≤ a := by
  induction n generalizing p with
  | zero => cases hn
  | succ n ih =>
    by_cases hp : p < 8 * avail
    · obtain ⟨a, ha, hle⟩ := ih (p := p + 1) (by omega) (by omega)
      exact ⟨a, by rw [getBits, getBit_of_lt hp, ha], hle⟩
    · exact ⟨p / 8, by rw [getBits, getBit_of_ge (by omega)], by omega⟩

/-- Settles O42: inside the window the reader reads the stream's field, which is the weighted sum; past it, the
fault. -/
theorem bitReaderReadsMostSignificantFirst : Obligations.BitReaderReadsMostSignificantFirst := by
  intro m avail p n
  exact ⟨fun h => ⟨_, getBits_of_le h, streamField_toNat _ p n⟩, getBits_of_gt⟩

/-! ### The checks of the prologue (R149, R150, R156) -/

/-- A reading that fails ends in that failure with no change (R154). -/
theorem deserialize_of_readReport_error {c : Config} {opa : Raw} {s : State} {f : Failure}
    (h : readReport c s.ibuf opa = .ok (.error f)) : deserialize c opa s = .next (raise f s) := by
  rw [deserialize, byteCount, h]

/-- A prologue that fails ends the reading of the report. -/
theorem readReport_of_readPrologue_error {c : Config} {m : Memory} {avail : Nat} {f : Failure}
    (h : readPrologue c m avail = .ok (.error f)) : readReport c m avail = .ok (.error f) := by
  rw [readReport, h]

/-- The first check: two bytes must be there (R150). -/
theorem deserialize_of_lt_two {opa : Raw} (h : opa < 2) (c : Config) (s : State) :
    deserialize c opa s = .next (raise (.malformed .trunc) s) := by
  apply deserialize_of_readReport_error
  apply readReport_of_readPrologue_error
  rw [readPrologue_eq, if_pos h]

/-- The other checks: what they find in the first two bytes ends the operation. -/
theorem deserialize_of_prologueCheck {c : Config} {opa : Raw} {s : State} {f : Failure} (h : 2 ≤ opa)
    (hf : prologueCheck c (streamField (streamBit s.ibuf) 0 1) (windowCpt s.ibuf) = some f) :
    deserialize c opa s = .next (raise f s) := by
  apply deserialize_of_readReport_error
  apply readReport_of_readPrologue_error
  rw [readPrologue_eq, if_neg (not_lt.mpr h), hf]

/-- Settles O45: each clause is the first check that finds something. -/
theorem prologueChecksComeInOrder : Obligations.PrologueChecksComeInOrder := by
  intro c opa s
  refine ⟨fun h => deserialize_of_lt_two h c s, fun h hstrict hdc => ?dc, fun h hdc hcpt => ?cpt⟩
  case dc =>
    have hne : streamField (streamBit s.ibuf) 0 1 ≠ 0 := by
      rw [streamField_one, hdc]
      decide
    exact deserialize_of_prologueCheck (f := .malformed .dc) h (if_pos ⟨hstrict, hne⟩)
  case cpt =>
    have hpass : ¬ (c.strictDc = true ∧ streamField (streamBit s.ibuf) 0 1 ≠ 0) := by
      rintro ⟨hstrict, hne⟩
      obtain hfalse | hfalse := hdc
      · rw [hfalse] at hstrict
        cases hstrict
      · rw [streamField_one, hfalse] at hne
        exact hne rfl
    exact deserialize_of_prologueCheck (f := .malformed .cpt) h ((if_neg hpass).trans (if_pos hcpt))

/-! ### An accepted report (R147, R152, R153) -/

/-- A report in the window is no longer than the window. -/
theorem Accepts.reportSize_le {m : Memory} {avail n : Nat} (h : Accepts m avail n) : reportSize n ≤ avail := by
  obtain ⟨hroom, -, -⟩ := h
  obtain ⟨-, hhigh⟩ := reportSize_bounds n
  omega

/-- Up to R115's bound an accepted report is answered with its size. -/
theorem exec_srDeserialize_of_accepts_of_le {opa : Raw} {s : State} {n : Nat} (h : Accepts s.ibuf opa n)
    (hn : n ≤ 1431655763) :
    exec (.srDeserialize opa) s =
      .next (respond (reportSize n) (setContext (windowAck s.ibuf) (windowNacks s.ibuf n) s)) := by
  rw [exec_srDeserialize_of_accepts h, respondNat_of_lt ((reportSize_lt_cfg_iff n).mpr hn)]

/-- Settles O43: the reading of an accepted report, with its size for an answer. -/
theorem deserializeCommitsAnAcceptedReport : Obligations.DeserializeCommitsAnAcceptedReport := by
  intro opa s n haccepts hn
  have htwo : 2 ≤ reportSize n := by
    obtain ⟨hlow, -⟩ := reportSize_bounds n
    omega
  exact ⟨_, rfl, htwo, haccepts.reportSize_le, exec_srDeserialize_of_accepts_of_le haccepts hn⟩

/-! ### Every other input (R150, R154, R155)

Where CPT is 000 and no report is accepted, the E1 chain is set as far as the window reaches: the first E1 that is
not would end an accepted report. So the loop goes on until an announced entry does not fit. -/

/-- An E1 chain that is set in front of entry `n` and clear there announces `n` entries (`30_encoding.md` R65). -/
theorem announces_of_windowE1 {m : Memory} {n : Nat} (hset : ∀ k, k < n → windowE1 m k = 1)
    (hend : windowE1 m n ≠ 1) : Announces m n := by
  have hiff (k : Nat) (hk : k ≤ n) : windowE1 m k = 1 ↔ k < n :=
    ⟨fun h => lt_of_le_of_ne hk fun e => hend (e ▸ h), hset k⟩
  constructor
  · rw [Bool.eq_iff_iff, decide_eq_true_iff, ← streamField_one_eq_one_iff]
    exact hiff 0 (Nat.zero_le n)
  · intro k hk
    rw [Bool.eq_iff_iff, decide_eq_true_iff, ← streamField_one_eq_one_iff]
    exact hiff (k + 1) hk

/-- In a window that is acceptable for no number of entries, every E1 is set. -/
theorem windowE1_of_not_accepts {m : Memory} {avail : Nat} (hcpt : windowCpt m = 0) (h : ∀ n, ¬ Accepts m avail n)
    (k : Nat) (hk : 15 + 12 * k ≤ 8 * avail) : windowE1 m k = 1 := by
  induction k using Nat.strong_induction_on with
  | h k ih =>
    by_contra hend
    exact h k ⟨hk, hcpt, announces_of_windowE1 (fun j hj => ih j hj (by omega)) hend⟩

/-- Where every E1 is set, the loop ends at an announced entry that does not fit (R150). -/
theorem readEntries_of_windowE1_set {m : Memory} {avail : Nat}
    (hset : ∀ k, 15 + 12 * k ≤ 8 * avail → windowE1 m k = 1) (rounds k : Nat) (hk : 15 + 12 * k ≤ 8 * avail) :
    readEntries cfg m avail rounds (windowShadow m k) = .ok (.error (.malformed .trunc)) := by
  have he1 : (windowShadow m k).e1 = 1 := hset k hk
  induction rounds generalizing k with
  | zero => rw [readEntries, if_pos he1]
  | succ rounds ih =>
    rw [readEntries, if_pos he1]
    by_cases hroom : 15 + 12 * (k + 1) ≤ 8 * avail
    · have hpos : ¬ 8 * avail < (windowShadow m k).pos + 12 := by
        simp only [windowShadow]
        omega
      rw [if_neg hpos, fifoFull_cfg, if_neg Bool.false_ne_true, readEntry_windowShadow hroom]
      exact ih (k + 1) hroom (hset (k + 1) hroom)
    · refine if_pos ?_
      simp only [windowShadow]
      omega

/-- A window with CPT = 000 that is acceptable for no number of entries ends too early. -/
theorem readReport_of_not_accepts {m : Memory} {avail : Nat} (hlen : 2 ≤ avail) (hcpt : windowCpt m = 0)
    (h : ∀ n, ¬ Accepts m avail n) : readReport cfg m avail = .ok (.error (.malformed .trunc)) := by
  have hprologue : readPrologue cfg m avail = .ok (.ok (windowShadow m 0)) := by
    rw [readPrologue_eq, if_neg (not_lt.mpr hlen), prologueCheck_cfg, if_pos hcpt]
    rfl
  rw [readReport, hprologue]
  exact readEntries_of_windowE1_set (windowE1_of_not_accepts hcpt h) _ 0 (by omega)

/-- Settles O44: too short for a prologue, off CPT = 000, or with an E1 chain that leaves the window. -/
theorem deserializeRejectsEveryOtherInput : Obligations.DeserializeRejectsEveryOtherInput := by
  intro opa s h
  by_cases hlen : 2 ≤ opa
  · by_cases hcpt : windowCpt s.ibuf = 0
    · rw [if_neg fun ⟨_, hne⟩ => hne hcpt]
      exact deserialize_of_readReport_error (readReport_of_not_accepts hlen hcpt h)
    · rw [if_pos ⟨hlen, hcpt⟩]
      exact deserialize_of_prologueCheck (f := .malformed .cpt) hlen
        ((prologueCheck_cfg _ _).trans (if_neg hcpt))
  · rw [if_neg fun ⟨hle, _⟩ => hlen hle]
    exact deserialize_of_lt_two (not_le.mp hlen) cfg s

/-! ### The bits that matter (R148, R151, R152)

Two windows hold the same report of `n` entries where they agree on every bit of it but D/C and the E2s. Then the
fields that the decoder uses are the same. -/

/-- The windows agree on the bits of a report of `n` entries that the decoder uses. -/
def SameReport (m m' : Memory) (n : Nat) : Prop :=
  ∀ p, 0 < p → p < 15 + 12 * n → (∀ k, k < n → p ≠ 26 + 12 * k) → streamBit m p = streamBit m' p

/-- Windows with the same bytes up to the end of a report hold the same report. -/
theorem SameReport.of_read {m m' : Memory} {avail n : Nat} (hroom : 15 + 12 * n ≤ 8 * avail)
    (h : ∀ a, a < avail → Memory.read m a = Memory.read m' a) : SameReport m m' n := by
  intro p _ hp _
  rw [streamBit, streamBit, h _ (by omega)]

section SameReport
variable {m m' : Memory} {n : Nat} (h : SameReport m m' n)
include h

theorem SameReport.windowCpt : windowCpt m = windowCpt m' :=
  streamField_congr fun i hi => h _ (by omega) (by omega) (by omega)

theorem SameReport.windowAck : windowAck m = windowAck m' :=
  streamField_congr fun i hi => h _ (by omega) (by omega) (by omega)

theorem SameReport.windowNacks : windowNacks m n = windowNacks m' n :=
  List.map_congr_left fun k hk => by
    have hkn : k < n := List.mem_range.mp hk
    exact streamField_congr fun i hi => h _ (by omega) (by omega) (by omega)

theorem SameReport.windowE1 {k : Nat} (hk : k ≤ n) : windowE1 m k = windowE1 m' k := by
  cases k with
  | zero => exact streamField_congr fun i hi => h _ (by omega) (by omega) (by omega)
  | succ k => exact streamField_congr fun i hi => h _ (by omega) (by omega) (by omega)

theorem SameReport.windowShadow : windowShadow m n = windowShadow m' n := by
  simp only [Machine.windowShadow, h.windowAck, h.windowE1 le_rfl, h.windowNacks]

theorem SameReport.announces (hn : Announces m' n) : Announces m n := by
  refine announces_of_windowE1 (fun k hk => ?_) ?_
  · rw [h.windowE1 hk.le]
    exact (hn.windowE1_eq_one_iff hk.le).mpr hk
  · rw [h.windowE1 le_rfl]
    exact mt (hn.windowE1_eq_one_iff le_rfl).mp (lt_irrefl n)

theorem SameReport.accepts {avail : Nat} (haccepts : Accepts m' avail n) : Accepts m avail n := by
  obtain ⟨hroom, hcpt, hn⟩ := haccepts
  exact ⟨hroom, h.windowCpt.trans hcpt, h.announces hn⟩

end SameReport

/-- The first two bytes fix CPT. -/
theorem windowCpt_congr {m m' : Memory} {avail : Nat} (hlen : 2 ≤ avail)
    (h : ∀ a, a < avail → Memory.read m a = Memory.read m' a) : windowCpt m = windowCpt m' :=
  (SameReport.of_read (n := 0) (by omega) h).windowCpt

/-- Settles O49: the other window is accepted with it and is read as the same shadow. -/
theorem ignoredBitsDoNotMatter : Obligations.IgnoredBitsDoNotMatter := by
  intro opa s t n m haccepts hbits hexec
  have hsame : SameReport m s.ibuf n := hbits
  have hread {m : Memory} (h : Accepts m opa n) : readReport cfg m opa = .ok (.ok (windowShadow m n)) :=
    readReport_of_accepts h rfl fun k _ => fifoFull_cfg k
  refine deserialize_withIbuf ?_ hexec
  exact (hread (hsame.accepts haccepts)).trans (hsame.windowShadow ▸ (hread haccepts).symm)

/-! ### Serialized reports, whole and truncated (R150, R155) -/

section ReportWindow
variable (ack : SN) (l : List SN)

/-- The bytes of a report are an acceptable report of their size. -/
theorem accepts_reportBytes :
    Accepts (Memory.ofBytes (reportBytes ack l)) (reportSize l.length) l.length := by
  obtain ⟨-, -, -, hcpt, -, he1, hentry, -⟩ := reportBytesHaveTheLayout ack l _ rfl
  obtain ⟨hroom, -⟩ := reportSize_bounds l.length
  refine ⟨hroom, hcpt, he1, fun k hk => ?_⟩
  obtain ⟨-, hmore, -⟩ := hentry k _ (List.getElem?_eq_getElem hk)
  exact hmore

theorem windowAck_reportBytes : windowAck (Memory.ofBytes (reportBytes ack l)) = ack :=
  reportStream_ack (streamBit_reportBytes ack l)

theorem windowNacks_reportBytes : windowNacks (Memory.ofBytes (reportBytes ack l)) l.length = l := by
  refine List.ext_getElem (windowNacks_length _ _) fun k _ hk => ?_
  obtain ⟨hsn, -, -⟩ := reportStream_entry (streamBit_reportBytes ack l) (List.getElem?_eq_getElem hk)
  simpa [windowNacks] using hsn

end ReportWindow

/-- A longer window accepts what a shorter one does. -/
theorem Accepts.mono {m : Memory} {avail avail' n : Nat} (h : Accepts m avail n) (hle : avail ≤ avail') :
    Accepts m avail' n := by
  obtain ⟨hroom, hrest⟩ := h
  exact ⟨by omega, hrest⟩

/-- Settles O47: the window holds the same report as the bytes written, whose fields are those of the context. -/
theorem deserializeOfSerializeIsTheContext : Obligations.DeserializeOfSerializeIsTheContext := by
  intro cap avail s t u hwf hn hcap hser havail hread
  obtain rfl : respondNat cfg (reportSize s.nack.length)
      { s with obuf := Memory.writeAll s.obuf 0 (reportBytes s.ackSn s.nack) } = t :=
    Host.Outcome.next.inj ((exec_srSerialize_of_le hcap).symm.trans hser)
  have hbytes (a : Nat) (ha : a < reportSize s.nack.length) :
      Memory.read u.ibuf a = Memory.read (Memory.ofBytes (reportBytes s.ackSn s.nack)) a := by
    rw [hread a ha, respondNat_obuf, Memory.read_ofBytes]
    refine Memory.read_writeAll_of_getElem? hwf ?_
    simp [ha]
  have haccepts := accepts_reportBytes s.ackSn s.nack
  obtain ⟨hroom, -⟩ := reportSize_bounds s.nack.length
  have hsame : SameReport u.ibuf (Memory.ofBytes (reportBytes s.ackSn s.nack)) s.nack.length :=
    .of_read hroom hbytes
  refine ⟨_, rfl, ?_⟩
  rw [exec_srDeserialize_of_accepts_of_le ((hsame.accepts haccepts).mono havail) hn, hsame.windowAck,
    hsame.windowNacks, windowAck_reportBytes, windowNacks_reportBytes]
  rfl

/-- The E1 chain of a window ends in one place. -/
theorem Announces.unique {m : Memory} {n n' : Nat} (h : Announces m n) (h' : Announces m n') : n = n' := by
  have hle {n n' : Nat} (h : Announces m n) (h' : Announces m n') : n ≤ n' := by
    by_contra hlt
    exact lt_irrefl n' ((h'.windowE1_eq_one_iff le_rfl).mp ((h.windowE1_eq_one_iff (by omega)).mpr (by omega)))
  exact le_antisymm (hle h h') (hle h' h)

/-- Settles O48: an accepted report in the truncated window would have the E1 chain of the whole one, which does not
end there; and its CPT is 000. -/
theorem everyTruncatedReportIsRejected : Obligations.EveryTruncatedReportIsRejected := by
  intro ack l opa s hopa hwindow
  have hbytes (a : Nat) (ha : a < opa) :
      Memory.read (Memory.ofBytes (reportBytes ack l)) a = Memory.read s.ibuf a := by
    rw [Memory.read_ofBytes, List.getD_eq_getElem?_getD, hwindow a ha]
    rfl
  obtain ⟨-, hcpt, hann⟩ := accepts_reportBytes ack l
  have hnot (n : Nat) : ¬ Accepts s.ibuf opa n := fun h => by
    have hsize := h.reportSize_le
    obtain ⟨hroom, -, hn⟩ := h
    obtain rfl : n = l.length := ((SameReport.of_read hroom hbytes).announces hn).unique hann
    exact not_lt.mpr hsize hopa
  refine (deserializeRejectsEveryOtherInput opa s hnot).trans ?_
  rw [if_neg fun ⟨hlen, hne⟩ => hne ((windowCpt_congr hlen hbytes).symm.trans hcpt)]

end Sys2Proof.Machine

/-! ## Failures (`60_exceptions.md`)

The twelve operations that answer OK in every state, what every other instruction does where it fails, and the
decoder's failure at a FIFO of finite depth. -/

namespace Sys2Proof.Machine

/-! ### The operations that never fail (R170) -/

/-- The twelve operations of R170's list. -/
def neverFails : Instr → Bool
  | .snConstruct _ | .snValue _ | .snEquals _ _ | .snInc _ | .snCmp _ _ => true
  | .srClear | .srSetack _ | .srGetack | .srPushnack _ | .srPopnack | .srGetsize | .srPrint => true
  | .srSerialize _ | .srDeserialize _ | .reservedE | .reservedF => false
  | .statusPrologue _ _ _ _ | .statusNackEntry _ _ _ | .statusPadding _ => false

/-- The outcome of an operation that does not fail: a next state whose response is OK. -/
def Succeeds (o : Host.Outcome State Fault Refusal) : Prop :=
  ∃ t v, o = .next t ∧ t.rsp = some ⟨.ok, 0, v⟩

theorem succeeds_respond (v : Res) (s : State) : Succeeds (.next (respond v s)) := ⟨_, v, rfl, rfl⟩

theorem succeeds_respondNat (c : Config) (n : Nat) (s : State) : Succeeds (.next (respondNat c n s)) := by
  obtain ⟨v, hv⟩ := respondNat_rsp c n s
  exact ⟨_, v, rfl, hv⟩

theorem succeeds_commit (c : Config) (sh : Shadow) (s : State) : Succeeds (.next (commit c sh s)) :=
  succeeds_respondNat c _ _

/-- An empty pop succeeds too: it answers the sentinel (R170, clause 1). -/
theorem succeeds_popNack (c : Config) (s : State) : Succeeds (.next (popNack c s)) := by
  obtain ⟨-, e⟩ | ⟨v, rest, -, e⟩ := popNack_cases c s <;> rw [e]
  · exact succeeds_respond _ _
  · exact succeeds_respond _ _

/-- Each of the twelve ends in `respond`: a push because the machine's FIFO is unbounded. -/
theorem exec_succeeds {i : Instr} (hi : neverFails i = true) (s : State) : Succeeds (exec i s) := by
  cases i with
  | snConstruct | snValue | snEquals | snInc | snCmp | srClear | srSetack | srGetack | srPrint =>
    exact succeeds_respond _ _
  | srPushnack opa =>
    rw [exec_srPushnack]
    exact succeeds_respond _ _
  | srPopnack => exact succeeds_popNack cfg s
  | srGetsize => exact succeeds_respondNat cfg _ s
  | srSerialize | srDeserialize | reservedE | reservedF | statusPrologue | statusNackEntry | statusPadding => cases hi

/-- Settles O58: the list holds operations that never fail. -/
theorem twelveOperationsNeverFail : Obligations.TwelveOperationsNeverFail := by
  intro opa opb s i hi
  have hnever : ∀ j ∈ [.snConstruct opa, .snValue opa, .snEquals opa opb, .snInc opa, .snCmp opa opb, .srClear,
      .srSetack opa, .srGetack, .srPushnack opa, .srPopnack, .srGetsize, .srPrint], neverFails j = true := by
    simp [neverFails]
  obtain ⟨t, v, ht, hrsp⟩ := exec_succeeds (hnever i hi) s
  exact ⟨t, _, ht, hrsp, rfl⟩

/-! ### A failure has no effect (R165) -/

/-- The state answers a failure. -/
def State.Failed (t : State) : Prop := ∃ r, t.rsp = some r ∧ r.status ≠ .ok

theorem not_failed_noResponse (s : State) : ¬ (noResponse s).Failed := by
  rintro ⟨r, hr, -⟩
  cases hr

/-- An outcome that succeeds is no failure. -/
theorem Succeeds.not_failed {t : State} (h : Succeeds (.next t)) : ¬ t.Failed := by
  obtain ⟨t', v, e, hv⟩ := h
  rintro ⟨r, hr, hne⟩
  cases e
  cases hv.symm.trans hr
  exact hne rfl

/-- The one way to fail, over all instructions: `raise` on the state as it was, where a wire element has ended its
reception before (log entry 3). -/
theorem exec_of_failed {i : Instr} {s t : State} (h : exec i s = .next t) (hfailed : t.Failed) :
    ∃ f x, t = raise f { s with shadow := x } ∧ (isCommand i = true → x = s.shadow) := by
  cases i with
  | srSerialize opa =>
    obtain hcap | hcap := lt_or_ge opa (reportSize s.nack.length)
    · cases h.symm.trans ((serialize_eq cfg opa s).trans (if_pos hcap))
      exact ⟨.capacity, s.shadow, rfl, fun _ => rfl⟩
    · cases h.symm.trans (exec_srSerialize_of_le hcap)
      exact absurd hfailed (succeeds_respondNat cfg _ _).not_failed
  | srDeserialize opa =>
    obtain ⟨f, e⟩ | ⟨sh, e⟩ := deserialize_cases cfg opa s
    · cases h.symm.trans e
      exact ⟨f, s.shadow, rfl, fun _ => rfl⟩
    · cases h.symm.trans e
      exact absurd hfailed (succeeds_commit cfg sh s).not_failed
  | reservedE | reservedF =>
    cases h
    exact ⟨.illegalOp, s.shadow, rfl, fun _ => rfl⟩
  | statusPrologue dc cpt ack e1 =>
    cases h
    obtain ⟨f, -, e⟩ | ⟨-, e⟩ := readPrologueElement_cases cfg dc cpt ack e1 s
    · exact ⟨f, none, e, nofun⟩
    · exact absurd (e ▸ hfailed) (not_failed_noResponse _)
  | statusNackEntry sn e1 e2 =>
    cases h
    obtain ⟨-, e⟩ | ⟨sh, -, -, -, e⟩ | ⟨sh, -, -, -, e⟩ := readEntryElement_cases cfg sn e1 s
    · exact absurd (e ▸ hfailed) (not_failed_noResponse _)
    · exact ⟨.full, none, e, nofun⟩
    · exact absurd (e ▸ hfailed) (not_failed_noResponse _)
  | statusPadding p =>
    cases h
    obtain ⟨-, e⟩ | ⟨sh, -, -, e⟩ | ⟨sh, -, -, e⟩ := readPaddingElement_cases cfg s
    · exact absurd (e ▸ hfailed) (not_failed_noResponse _)
    · exact ⟨.malformed .trunc, none, e, nofun⟩
    · exact absurd (e ▸ hfailed) (succeeds_commit cfg sh _).not_failed
  | _ =>
    have hsucceeds : Succeeds (.next t) := h ▸ exec_succeeds rfl s
    exact absurd hfailed hsucceeds.not_failed

/-- Only `MALFORMED` carries a sub-cause (`30_encoding.md` R73). -/
theorem Failure.info_of_status_ne {f : Failure} (h : f.status ≠ .malformed) : f.info = 0 := by
  cases f with
  | malformed c => exact absurd rfl h
  | _ => rfl

/-- Settles O56: a failing state is `raise` of a failure, which writes nothing but the response. -/
theorem failuresLeaveNoTrace : Obligations.FailuresLeaveNoTrace := by
  intro i s t r h hr hne
  obtain ⟨f, x, rfl, hx⟩ := exec_of_failed h ⟨r, hr, hne⟩
  cases hr
  exact ⟨rfl, Failure.info_of_status_ne, rfl, hx⟩

/-! ### `Full` on decode (R169) -/

/-- A prologue that passes its checks is read as the shadow in front of the first entry. -/
theorem readPrologue_of_check {c : Config} {m : Memory} {avail : Nat} (hlen : 2 ≤ avail)
    (hcheck : prologueCheck c (streamField (streamBit m) 0 1) (windowCpt m) = none) :
    readPrologue c m avail = .ok (.ok (windowShadow m 0)) := by
  rw [readPrologue_eq, if_neg (not_lt.mpr hlen), hcheck]
  rfl

/-- Where one entry more than the depth is announced and lies in the window, the loop takes entries until the FIFO
is full and stops at the next one. -/
theorem readEntries_of_windowE1_beyond_depth {c : Config} {m : Memory} {avail depth : Nat}
    (hdepth : c.nackDepth = some depth) (hroom : 15 + 12 * (depth + 1) ≤ 8 * avail)
    (hset : ∀ k, k ≤ depth → windowE1 m k = 1) (rounds k : Nat) (hk : k ≤ depth) (hrounds : depth < k + rounds) :
    readEntries c m avail rounds (windowShadow m k) = .ok (.error .full) := by
  induction rounds generalizing k with
  | zero => omega
  | succ rounds ih =>
    have he1 : (windowShadow m k).e1 = 1 := hset k hk
    have hpos : ¬ 8 * avail < (windowShadow m k).pos + 12 := by
      simp only [windowShadow]
      omega
    have hfull : fifoFull c (windowShadow m k).nack.length = true ↔ k = depth := by
      rw [fifoFull_iff, hdepth, windowShadow, windowNacks_length, Option.some_inj, eq_comm]
    rw [readEntries, if_pos he1, if_neg hpos]
    obtain hlt | rfl := Nat.lt_or_eq_of_le hk
    · rw [if_neg (mt hfull.mp hlt.ne), readEntry_windowShadow (by omega)]
      exact ih (k + 1) hlt (by omega)
    · exact if_pos (hfull.mpr rfl)

/-- Settles O46: the prologue passes, and the loop over the entries ends at the depth. -/
theorem deserializeBeyondTheDepthIsFull : Obligations.DeserializeBeyondTheDepthIsFull := by
  intro c opa s depth hdepth hdc hcpt hroom hheader hentries
  have hcheck : prologueCheck c (streamField (streamBit s.ibuf) 0 1) (windowCpt s.ibuf) = none := by
    obtain hstrict | hzero := hdc
    · simp [prologueCheck, hstrict, hcpt]
    · simp [prologueCheck, streamField_one, hzero, flagOf, hcpt]
  have hset (k : Nat) (hk : k ≤ depth) : windowE1 s.ibuf k = 1 := by
    cases k with
    | zero => exact (streamField_one_eq_one_iff _ _).mpr hheader
    | succ k => exact (streamField_one_eq_one_iff _ _).mpr (hentries k hk)
  apply deserialize_of_readReport_error (f := .full)
  rw [readReport, readPrologue_of_check (by omega) hcheck]
  exact readEntries_of_windowE1_beyond_depth hdepth hroom hset _ 0 (Nat.zero_le depth) (by omega)

end Sys2Proof.Machine

/-! ## Reset during an operation (`70_reset_and_hazards.md` R186)

An abandoned operation leaves its mark on OBUF, the sink and the count of draws alone; the reset that follows leaves
these three as they are. -/

namespace Sys2Proof.Machine

/-- A step whose next input is `rst` during a word's operation abandons that word. -/
theorem step_of_rstDuring {w : PortWord} {rest : List Input} {s : State} (h : s.inputs = .rstDuring w :: rest) :
    step s = .next (abandonWord cfg w { s with inputs := rest }) := by
  simp only [step, takeInput, takeInputWith, h]

/-- What is abandoned before the reset: the instruction the word decodes to, or nothing where it is rejected. -/
theorem abandonWord_cases (w : PortWord) (s : State) :
    (∃ i, decode w = .ok i ∧ abandonWord cfg w s = resetBlock cfg (abandonInstr i s)) ∨
    (∃ e, decode w = .error e ∧ abandonWord cfg w s = resetBlock cfg s) := by
  unfold abandonWord
  split
  · exact .inl ⟨_, ‹_›, rfl⟩
  · exact .inr ⟨_, ‹_›, rfl⟩

/-- After some of the writes of bytes from offset 0, each offset holds its old byte or its new one. -/
theorem Memory.read_writeSome_old_or_new {m : Memory} (hm : Memory.wf m) (chosen : Nat → Bool) (bytes : List Byte)
    (a : Nat) : Memory.read (Memory.writeSome chosen m 0 bytes) a = Memory.read m a ∨
      bytes[a]? = some (Memory.read (Memory.writeSome chosen m 0 bytes) a) := by
  rw [Memory.read_writeSome hm]
  split
  next h =>
    obtain ⟨-, hlt, -⟩ := h
    have ha : a < bytes.length := by omega
    exact .inr (by simp [ha])
  next => exact .inl rfl

/-- The mark of an abandoned operation: a mixture of old bytes and a report's in OBUF, where it was a `SR.SERIALIZE`
that had passed its capacity check, and first items of a print in the sink, where it was a `SR.PRINT`. -/
theorem abandonInstr_frame (i : Instr) {s : State} (hwf : Memory.wf s.obuf) :
    ∃ (m : Memory) (items : List SinkItem) (d : Nat),
      abandonInstr i s = { s with obuf := m, sink := s.sink ++ items, draws := d } ∧
      (∀ a, Memory.read m a = Memory.read s.obuf a ∨
        ((reportBytes s.ackSn s.nack)[a]? = some (Memory.read m a) ∧
          ∃ opa, i = .srSerialize opa ∧ reportSize s.nack.length ≤ opa)) ∧
      (items = [] ∨ (i = .srPrint ∧ items <+: printItems s.ackSn s.nack)) := by
  obtain h | ⟨opa, hi, hcap, h⟩ | ⟨hi, h⟩ := abandonInstr_cases i s
  · exact ⟨s.obuf, [], s.draws, by simp [h], fun _ => .inl rfl, .inl rfl⟩
  · exact ⟨_, [], _, by rw [h, List.append_nil],
      fun a => (Memory.read_writeSome_old_or_new hwf _ _ a).imp_right fun hnew => ⟨hnew, opa, hi, hcap⟩, .inl rfl⟩
  · exact ⟨s.obuf, _, _, h, fun _ => .inl rfl, .inr ⟨hi, _, List.take_append_drop _ _⟩⟩

/-- Settles O8: the reset keeps the mark of the abandoned operation, and a rejected word has none. -/
theorem resetDuringAnOperationAbandonsIt : Obligations.ResetDuringAnOperationAbandonsIt := by
  intro s w rest hwf hinputs
  rw [step_of_rstDuring hinputs]
  obtain ⟨i, hi, hword⟩ | ⟨_, -, hword⟩ := abandonWord_cases w { s with inputs := rest }
  · obtain ⟨m, items, d, hmark, hobuf, hsink⟩ := abandonInstr_frame i (s := { s with inputs := rest }) hwf
    rw [hword, hmark, hi]
    simp only [Except.ok.injEq]
    exact ⟨m, items, d, rfl, hobuf, hsink⟩
  · exact ⟨s.obuf, [], s.draws, by rw [hword, List.append_nil]; rfl, fun _ => .inl rfl, .inl rfl⟩

end Sys2Proof.Machine

/-! ## Which words are instructions (`30_encoding.md` R60, R66, R70)

Of the words only a prologue can be rejected, by its CPT field; and the bits of that field are those of the table's
mask. -/

namespace Sys2Proof.Machine

/-- Settles O1: the lemma that a well-formed instruction is what its own word decodes to. -/
theorem decodeOfEncodeIsTheInstruction : Obligations.DecodeOfEncodeIsTheInstruction :=
  fun _ => decode_encode_of_wf

/-- The mask of the table's prologue row keeps the CPT field and clears the three others: the word is cut into its
fields, and the mask with it. -/
theorem prologue_and_mask (w : BitVec 15) :
    w &&& 0x3800 = 0#1 ++ w.extractLsb' 11 3 ++ 0#10 ++ 0#1 := by
  have hmask : (0x3800 : BitVec 15) = 0#1 ++ BitVec.allOnes 3 ++ 0#10 ++ 0#1 := by decide
  calc w &&& 0x3800
    _ = (w.extractLsb' 14 1 ++ w.extractLsb' 11 3 ++ w.extractLsb' 1 10 ++ w.extractLsb' 0 1) &&&
          (0#1 ++ BitVec.allOnes 3 ++ 0#10 ++ 0#1) := by rw [prologue_fields_append, hmask]
    _ = 0#1 ++ w.extractLsb' 11 3 ++ 0#10 ++ 0#1 := by
        simp only [BitVec.and_append, BitVec.and_zero, BitVec.and_allOnes]

/-- CPT is 000 exactly where the bits under the mask are the row's match. -/
theorem prologue_cpt_eq_zero_iff (w : BitVec 15) : w.extractLsb' 11 3 = 0 ↔ w &&& 0x3800 = 0x0000 := by
  rw [prologue_and_mask]
  generalize w.extractLsb' 11 3 = cpt
  revert cpt
  decide

/-- A prologue is rejected exactly where its CPT is not 000 (R66). -/
theorem decode_wire15_error_iff (w : BitVec 15) :
    (∃ e, decode (.wire15 w) = .error e) ↔ w.extractLsb' 11 3 ≠ 0 := by
  by_cases hcpt : w.extractLsb' 11 3 = 0
  · simp only [decode, decodeIn, decodeWire15, if_pos hcpt]
    exact iff_of_false nofun (not_not.mpr hcpt)
  · simp only [decode, decodeIn, decodeWire15, if_neg hcpt]
    exact iff_of_true ⟨_, rfl⟩ hcpt

/-- Settles O3: by the kind of word; all but the prologue decode whatever their bits are. -/
theorem onlyPrologueOffStatusCptIsRejected : Obligations.OnlyPrologueOffStatusCptIsRejected := by
  intro w
  cases w with
  | wire15 v =>
    rw [decode_wire15_error_iff, Ne, prologue_cpt_eq_zero_iff]
    simp
  | command | wire12 | wirePad => exact ⟨nofun, nofun⟩

/-- Settles O4: the decoder is run on the eight words. -/
theorem specWordsDecodeToTheirInstructions : Obligations.SpecWordsDecodeToTheirInstructions :=
  ⟨rfl, rfl, rfl, rfl, rfl, rfl, rfl, rfl⟩

end Sys2Proof.Machine

/-! ## `SR.HASMORE` and the pseudo-operations (`10_state.md` R24, `30_encoding.md` R77) -/

namespace Sys2Proof.Machine

theorem State.count_eq_zero_iff (s : State) : s.count = 0 ↔ s.nack = [] := List.length_eq_zero_iff

/-- HASMORE is the complement of `EMPTY`. -/
theorem State.hasMore_eq_one_iff (s : State) : s.hasMore = 1 ↔ s.empty = 0 := by
  rw [State.hasMore]
  generalize s.empty = flag
  revert flag
  decide

/-- Settles O34: by what the pop does; on an empty FIFO it answers the negative sentinel, else a ten-bit value. -/
theorem emptyTellsWhetherAPopReturnsARealValue : Obligations.EmptyTellsWhetherAPopReturnsARealValue := by
  intro s
  refine ⟨rfl, s.empty_eq_one_iff.trans s.count_eq_zero_iff.symm, s.hasMore_eq_one_iff, popNack cfg s, ?_⟩
  rw [s.hasMore_eq_one_iff, s.empty_eq_zero_iff]
  obtain ⟨h, e⟩ | ⟨sn, rest, h, e⟩ := popNack_cases cfg s
  · exact ⟨_, exec_srPopnack s, congrArg State.rsp e, iff_of_false (not_not.mpr h) popSentinel_cfg_neg.not_ge⟩
  · exact ⟨_, exec_srPopnack s, congrArg State.rsp e, iff_of_true (by simp [h]) (zextRes_nonneg sn)⟩

/-- The slice of a ten-bit value is that value. -/
@[simp] theorem trunc10_toNat (sn : SN) : trunc10 sn.toNat = sn :=
  (trunc10_eq_iff _ _).mpr (Nat.mod_eq_of_lt sn.isLt)

/-- What `SN.INC` does. -/
theorem exec_snInc (opa : Raw) (s : State) : exec (.snInc opa) s = .next (respond (zextRes (trunc10 opa + 1)) s) := rfl

/-- The increment of a slice is the slice of the increment. -/
theorem zextRes_trunc10_add_one (opa : Raw) : zextRes (trunc10 opa + 1) = ((opa + 1) % 1024 : Nat) := by
  rw [← zextRes_trunc10, trunc10, trunc10, BitVec.ofNat_add]
  rfl

/-- Settles O35: each sequence is run; what `SN.NEXT` hands on is already a ten-bit value, as is the operand of
`SR.PUSHSN`. -/
theorem pseudoOperationsDoTheirSequences : Obligations.PseudoOperationsDoTheirSequences := by
  intro opa sn s
  refine ⟨trunc10 opa, _, toNat_trunc10 opa, rfl, rfl, ?next, ?pushSn⟩
  case next =>
    rw [pseudoNext, runInstrs_cons_of_next rfl, runInstrs_cons_of_next (exec_snInc _ _), trunc10_toNat,
      zextRes_trunc10_add_one]
    rfl
  case pushSn =>
    rw [pseudoPushSn, runInstrs_cons_of_next (exec_srPushnack _ _), trunc10_toNat]
    rfl

end Sys2Proof.Machine

/-! ## Wire elements, one a step (log entry 3)

What each element does to the shadow, and a whole report presented element by element: behind the prologue and `k`
entries the shadow is the one that `SR.DESERIALIZE` holds there, and the padding commits it. -/

namespace Sys2Proof.Machine

/-- Settles O52: of the checks of the prologue the machine makes the one on CPT. -/
theorem prologueElementStartsTheShadow : Obligations.PrologueElementStartsTheShadow := by
  intro dc cpt ack e1 s
  constructor <;> intro hcpt
  · rw [exec, execStatusPrologue, readPrologueElement, prologueCheck_cfg, if_pos hcpt]
    rfl
  · rw [exec, execStatusPrologue, readPrologueElement, prologueCheck_cfg, if_neg hcpt]
    rfl

/-- An announced entry goes to the shadow (R147), whatever its E2 (R151). -/
theorem exec_statusNackEntry_of_announced {s : State} {sh : Shadow} (hs : s.shadow = some sh) (he1 : sh.e1 = 1)
    (sn : SN) (e1 e2 : Flag) :
    exec (.statusNackEntry sn e1 e2) s = .next { s with shadow := some (sh.push sn e1), rsp := none } := by
  simp only [exec, execStatusNackEntry, readEntryElement, hs, if_pos he1, fifoFull_cfg]
  rfl

/-- Settles O53: an announced entry is the one that has an effect. -/
theorem entryElementExtendsTheShadow : Obligations.EntryElementExtendsTheShadow := by
  refine fun sn e1 e2 s => ⟨fun pos ack l hs => exec_statusNackEntry_of_announced hs rfl sn e1 e2, fun hs => ?_⟩
  have hidle : readEntryElement cfg sn e1 s = noResponse s := by
    obtain hs | ⟨pos, ack, l, hs⟩ := hs
    · simp only [readEntryElement, hs]
    · simp only [readEntryElement, hs, if_neg (show (0 : Flag) ≠ 1 by decide)]
  exact congrArg _ hidle

/-- The padding commits the shadow behind the last entry (R152, R153). -/
theorem exec_statusPadding_of_end {s : State} {sh : Shadow} (hs : s.shadow = some sh) (he1 : sh.e1 ≠ 1)
    (p : PadBits) : exec (.statusPadding p) s = .next (commit cfg sh { s with shadow := none }) := by
  simp only [exec, execStatusPadding, readPaddingElement, hs, if_neg he1]

/-- `consumed` is the size of the report whose entries the shadow holds (R152). -/
theorem Shadow.Ok.consumed_eq {sh : Shadow} (h : sh.Ok) : sh.consumed = reportSize sh.nack.length := by
  unfold Shadow.Ok at h
  rw [Shadow.consumed, reportSize, h]
  omega

/-- Settles O54: by the shadow; up to R115's bound the commit answers the size. -/
theorem paddingElementEndsTheReport : Obligations.PaddingElementEndsTheReport := by
  refine fun p s => ⟨fun ack l hs hn => ⟨_, rfl, ?commit⟩, fun pos ack l hs => ?announced, fun hs => ?idle⟩
  case commit =>
    have hok : Shadow.Ok ⟨15 + 12 * l.length, ack, 0, l⟩ := rfl
    rw [exec_statusPadding_of_end hs (show (0 : Flag) ≠ 1 by decide), commit, hok.consumed_eq,
      respondNat_of_lt ((reportSize_lt_cfg_iff _).mpr hn)]
    rfl
  case announced =>
    simp only [exec, execStatusPadding, readPaddingElement, hs, if_true]
    rfl
  case idle =>
    have hidle : readPaddingElement cfg s = noResponse s := by simp only [readPaddingElement, hs]
    exact congrArg _ hidle

/-! ### The words of a report in the window -/

/-- The first 15 bits of a window with CPT = 000 are the prologue of its fields (R60). -/
theorem decode_windowPrologue {m : Memory} (hcpt : windowCpt m = 0) :
    decode (.wire15 (streamField (streamBit m) 0 15)) =
      .ok (.statusPrologue (streamField (streamBit m) 0 1) 0 (windowAck m) (windowE1 m 0)) := by
  have hbits : streamField (streamBit m) 0 15 =
      streamField (streamBit m) 0 1 ++ (0 : BitVec 3) ++ windowAck m ++ windowE1 m 0 :=
    streamField_append (m := 14) (n := 1)
      (streamField_append (m := 4) (n := 10) (streamField_append (m := 1) (n := 3) rfl hcpt) rfl) rfl
  rw [hbits]
  exact decodeWire15_fields _ _ _

/-- The 12 bits behind `k` entries are the entry of the fields there (R60). -/
theorem decode_windowEntry (m : Memory) (k : Nat) :
    ∃ e2, decode (.wire12 (streamField (streamBit m) (15 + 12 * k) 12)) =
      .ok (.statusNackEntry (streamField (streamBit m) (15 + 12 * k) 10) (windowE1 m (k + 1)) e2) := by
  have he1 : streamField (streamBit m) (15 + 12 * k + 10) 1 = windowE1 m (k + 1) := by
    rw [windowE1, show 15 + 12 * k + 10 = 25 + 12 * k by omega]
  have hbits : streamField (streamBit m) (15 + 12 * k) 12 = streamField (streamBit m) (15 + 12 * k) 10 ++
      windowE1 m (k + 1) ++ streamField (streamBit m) (15 + 12 * k + 11) 1 :=
    streamField_append (m := 11) (n := 1) (streamField_append (m := 10) (n := 1) rfl he1) rfl
  refine ⟨streamField (streamBit m) (15 + 12 * k + 11) 1, ?_⟩
  rw [hbits]
  exact congrArg Except.ok (decodeWire12_fields _ _ _)

/-- The shadow behind `k` entries, extended by the next one of the window. -/
theorem windowShadow_push (m : Memory) (k : Nat) :
    (windowShadow m k).push (streamField (streamBit m) (15 + 12 * k) 10) (windowE1 m (k + 1)) =
      windowShadow m (k + 1) := by
  simp only [windowShadow, Shadow.push, windowNacks_succ]
  rfl

/-! ### The run of the words -/

/-- A word that decodes, and then the others. -/
theorem runWords_cons_of_next {w : PortWord} {i : Instr} {s t : State} (hw : decode w = .ok i)
    (ht : exec i s = .next t) (rest : List PortWord) : runWords (w :: rest) s = runWords rest t := by
  simp only [runWords, takeWord_of_decode hw, ht]

/-- A run goes on where its first part ends. -/
theorem runWords_append {ws : List PortWord} {s t : State} (h : runWords ws s = some t) (rest : List PortWord) :
    runWords (ws ++ rest) s = runWords rest t := by
  induction ws generalizing s with
  | nil =>
    cases h
    rfl
  | cons w ws ih =>
    rw [List.cons_append, runWords]
    rw [runWords] at h
    split at h
    · exact ih h
    · cases h
    · cases h

/-- The prologue and the first `k` announced entries, one a step, end in the shadow behind `k` entries. -/
theorem runWords_windowShadow {s : State} {n : Nat} (hcpt : windowCpt s.ibuf = 0) (hn : Announces s.ibuf n) (k : Nat)
    (hk : k ≤ n) :
    runWords (.wire15 (streamField (streamBit s.ibuf) 0 15) ::
      (List.range k).map fun j => .wire12 (streamField (streamBit s.ibuf) (15 + 12 * j) 12)) s =
        some { s with shadow := some (windowShadow s.ibuf k), rsp := none } := by
  induction k with
  | zero =>
    obtain ⟨hstart, -⟩ := prologueElementStartsTheShadow (streamField (streamBit s.ibuf) 0 1) 0 (windowAck s.ibuf)
      (windowE1 s.ibuf 0) s
    rw [runWords_cons_of_next (decode_windowPrologue hcpt) (hstart rfl)]
    rfl
  | succ k ih =>
    obtain ⟨e2, hentry⟩ := decode_windowEntry s.ibuf k
    have he1 : (windowShadow s.ibuf k).e1 = 1 := (hn.windowE1_eq_one_iff (by omega)).mpr hk
    rw [List.range_succ, List.map_append, ← List.cons_append, runWords_append (ih (by omega)), List.map_singleton,
      runWords_cons_of_next hentry (exec_statusNackEntry_of_announced rfl he1 _ _ _), windowShadow_push]
    rfl

/-- The commit overwrites the response. -/
theorem commit_withRsp (c : Config) (sh : Shadow) (s : State) (r : Option Response) :
    commit c sh { s with rsp := r } = commit c sh s := by
  unfold commit respondNat
  split <;> rfl

/-- Settles O55: the words in front of the padding end in the shadow of the whole report, and the padding commits
what `SR.DESERIALIZE` commits. -/
theorem elementByElementIsDeserialize : Obligations.ElementByElementIsDeserialize := by
  intro opa s n hs haccepts
  have hexec := exec_srDeserialize_of_accepts haccepts
  obtain ⟨-, hcpt, hn⟩ := haccepts
  have hend : (windowShadow s.ibuf n).e1 ≠ 1 := mt (hn.windowE1_eq_one_iff le_rfl).mp (lt_irrefl n)
  have hidle : { s with shadow := none } = s := by rw [← hs]
  refine ⟨commit cfg (windowShadow s.ibuf n) s, ?run, ?deserialize⟩
  case run =>
    rw [windowWords, runWords_append (runWords_windowShadow hcpt hn n le_rfl),
      runWords_cons_of_next rfl (exec_statusPadding_of_end rfl hend _)]
    refine congrArg some ((commit_withRsp cfg _ { s with shadow := none } none).trans ?_)
    rw [hidle]
  case deserialize =>
    rw [hexec, ← windowShadow_consumed s.ibuf n]
    rfl

end Sys2Proof.Machine

/-! ## The step, whatever its input (`20_memory.md` R42, R43, R48, `70_reset_and_hazards.md` R185)

What a step does with each input that is no instruction, and that it answers a next state in every case. -/

namespace Sys2Proof.Machine

/-- A rejected word is answered with `Malformed(CPT)`: the machine does not check D/C (R148, R149). -/
theorem rejectFailure_cfg (dc : Flag) (cpt : BitVec 3) :
    rejectFailure cfg (.cptNotStatus dc cpt) = .malformed .cpt := by
  rw [rejectFailure, prologueCheck_cfg]
  split <;> rfl

/-- A word that the decoder rejects ends the reception in progress. -/
theorem takeWord_of_decode_error {w : PortWord} {e : DecodeError} (h : decode w = .error e) (s : State) :
    takeWord w s = .next (raise (.malformed .cpt) { s with shadow := none }) := by
  obtain ⟨i, hi, -⟩ | ⟨dc, cpt, -, hw⟩ := takeWord_cases w s
  · cases hi.symm.trans h
  · rw [hw, rejectFailure_cfg]

/-- Settles O6: the step takes the word, and the word is rejected. -/
theorem stepAnswersARejectedPrologueMalformed : Obligations.StepAnswersARejectedPrologueMalformed := by
  intro s w rest e hw he
  rw [step_of_word hw, takeWord_of_decode_error he]
  rfl

/-- A step whose next input is `rst` resets the block. -/
theorem step_of_rst {rest : List Input} {s : State} (h : s.inputs = .rst :: rest) :
    step s = .next (resetBlock cfg { s with inputs := rest }) := by
  simp only [step, takeInput, takeInputWith, h]

/-- Settles O7: the context's reset is the one of `State.reset`, under the machine's configuration. -/
theorem stepTakesReset : Obligations.StepTakesReset := fun _ _ h => step_of_rst h

/-- A step without an input waits. -/
theorem step_of_no_input {s : State} (h : s.inputs = []) : step s = .next (noResponse s) := by
  simp only [step, takeInput, takeInputWith, h]

theorem step_of_lendIbuf {bytes : List Byte} {rest : List Input} {s : State} (h : s.inputs = .lendIbuf bytes :: rest) :
    step s = .next (noResponse { s with inputs := rest, ibuf := Memory.ofBytes bytes }) := by
  simp only [step, takeInput, takeInputWith, h]

theorem step_of_lendObuf {bytes : List Byte} {rest : List Input} {s : State} (h : s.inputs = .lendObuf bytes :: rest) :
    step s = .next (noResponse { s with inputs := rest, obuf := Memory.ofBytes bytes }) := by
  simp only [step, takeInput, takeInputWith, h]

/-- Settles O9: the window lent is the list of its bytes, which read back. -/
theorem stepWithoutAWordLeavesTheBlock : Obligations.StepWithoutAWordLeavesTheBlock :=
  fun _ _ bytes => ⟨step_of_no_input, fun h => ⟨_, step_of_lendIbuf h, Memory.read_ofBytes bytes⟩,
    fun h => ⟨_, step_of_lendObuf h, Memory.read_ofBytes bytes⟩⟩

/-- No instruction faults or is refused. -/
theorem exec_next (i : Instr) (s : State) : ∃ t, exec i s = .next t := by
  rw [← execIn_cfg]
  exact execIn_next cfg i s

/-- Settles O10: every input but a word is taken without a check; a word runs an instruction or is rejected. -/
theorem everyStepAnswersANextState : Obligations.EveryStepAnswersANextState := by
  intro s
  obtain ⟨-, h⟩ | ⟨_, -, h⟩ | ⟨_, _, -, h⟩ | ⟨_, _, -, h⟩ | ⟨_, _, -, h⟩ | ⟨w, rest, -, h⟩ := step_cases s
  · exact ⟨_, h⟩
  · exact ⟨_, h⟩
  · exact ⟨_, h⟩
  · exact ⟨_, h⟩
  · exact ⟨_, h⟩
  · obtain ⟨i, -, hword⟩ | ⟨_, _, -, hword⟩ := takeWord_cases w { s with inputs := rest }
    · rw [h, hword]
      exact exec_next i _
    · exact ⟨_, h.trans hword⟩

end Sys2Proof.Machine

/-! ## The invariant (`30_encoding.md` R73, `10_state.md` R27, R31)

It speaks of the two windows, the shadow and the response alone, so an update of any other field keeps it as it
stands; an operation keeps it because of what it puts into these four. -/

namespace Sys2Proof.Machine

/-! ### Results that `res` carries -/

/-- The `RES_W` wires of the machine's `res` carry the result exactly. -/
abbrev Carried (v : Res) : Prop := (resBits cfg.resW v).toInt = v

/-- What the wires read as is carried, in particular a free value and the sentinel. -/
theorem carried_toInt (w : BitVec cfg.resW) : Carried w.toInt := congrArg BitVec.toInt BitVec.ofInt_toInt

/-- A non-negative number below `2 ^ (RES_W - 1)` is carried. -/
theorem carried_of_lt {v : Res} (hnonneg : 0 ≤ v) (hlt : v < 2 ^ (cfg.resW - 1)) : Carried v :=
  BitVec.toInt_ofInt_eq_self (by decide) (le_trans (by decide) hnonneg) hlt

theorem carried_zero : Carried 0 := by decide

theorem carried_zextRes (v : SN) : Carried (zextRes v) :=
  carried_of_lt (zextRes_nonneg v) (lt_trans (zextRes_lt v) (by decide))

theorem carried_boolRes (b : Bool) : Carried (boolRes b) := by
  cases b <;> decide

theorem carried_verdictCode (v : Verdict) : Carried (verdictCode v) := by
  cases v <;> decide

theorem carried_popSentinel : Carried cfg.popSentinel := carried_toInt (BitVec.cons true Config.popSentinelLow)

/-! ### Responses -/

/-- A response of R73's form whose result is carried is one of the invariant's. -/
theorem Response.Formed.ok {r : Response} (h : r.Formed) (hres : Carried r.res) : r.Ok := by
  obtain ⟨-, hres0, hinfo0, hinfo⟩ := h
  refine ⟨hres0, hinfo0, ?_, hres⟩
  obtain e | e : r.info = 0 ∨ r.info = 1 := by
    by_cases hst : r.status = .malformed
    · exact hinfo hst
    · exact .inl (hinfo0 hst)
  all_goals simp [e]

/-! ### One rule per way to write a state -/

section Rules
variable {s : State} (h : Inv s)
include h

theorem Inv.wf_obuf : Memory.wf s.obuf := by
  obtain ⟨-, hobuf, -⟩ := h
  exact hobuf

theorem Inv.shadow_ok {sh : Shadow} (hs : s.shadow = some sh) : sh.Ok := by
  obtain ⟨-, -, hshadow, -⟩ := h
  exact hshadow sh hs

theorem inv_withRsp {r : Option Response} (hr : ∀ x, r = some x → x.Ok) : Inv { s with rsp := r } := by
  obtain ⟨hibuf, hobuf, hshadow, -⟩ := h
  exact ⟨hibuf, hobuf, hshadow, hr⟩

theorem inv_withShadow {x : Option Shadow} (hx : ∀ sh, x = some sh → sh.Ok) : Inv { s with shadow := x } := by
  obtain ⟨hibuf, hobuf, -, hrsp⟩ := h
  exact ⟨hibuf, hobuf, hx, hrsp⟩

theorem inv_withIbuf {m : Memory} (hm : Memory.wf m) : Inv { s with ibuf := m } := by
  obtain ⟨-, hrest⟩ := h
  exact ⟨hm, hrest⟩

theorem inv_withObuf {m : Memory} (hm : Memory.wf m) : Inv { s with obuf := m } := by
  obtain ⟨hibuf, -, hrest⟩ := h
  exact ⟨hibuf, hm, hrest⟩

theorem inv_respond {v : Res} (hv : Carried v) : Inv (respond v s) := by
  refine inv_withRsp h fun r hr => ?_
  cases hr
  exact (Response.formed_ok v).ok hv

/-- Whether it fits or not, a natural result is answered with a word of the wires. -/
theorem inv_respondNat (n : Nat) : Inv (respondNat cfg n s) := by
  by_cases hn : n < 2 ^ (cfg.resW - 1)
  · rw [respondNat_of_lt hn]
    exact inv_respond h (carried_of_lt (Int.natCast_nonneg n) (by exact_mod_cast hn))
  · rw [respondNat_of_ge hn]
    exact inv_respond (s := { s with draws := s.draws + 1 }) h (carried_toInt _)

/-- Every failure but that of D/C, which the machine does not have, is answered in R73's form. -/
theorem inv_raise {f : Failure} (hf : f ≠ .malformed .dc) : Inv (raise f s) := by
  refine inv_withRsp h fun r hr => ?_
  cases hr
  exact (Response.formed_failure hf).ok carried_zero

theorem inv_noResponse : Inv (noResponse s) := inv_withRsp h nofun

theorem inv_withoutShadow : Inv { s with shadow := none } := inv_withShadow h nofun

theorem inv_commit (sh : Shadow) : Inv (commit cfg sh s) :=
  inv_respondNat (s := setContext sh.ack sh.nack s) h _

theorem inv_resetBlock : Inv (resetBlock cfg s) := by
  have hreset : Inv { s with shadow := none } := inv_withoutShadow h
  exact inv_noResponse (s := clearContext cfg { s with shadow := none }) hreset

end Rules

/-! ### The operations with more than one outcome -/

theorem Shadow.ok_start (ack : SN) (e1 : Flag) : (Shadow.start ack e1).Ok := rfl

/-- Twelve bits read, one entry appended. -/
theorem Shadow.Ok.push {sh : Shadow} (h : sh.Ok) (sn : SN) (e1 : Flag) : (sh.push sn e1).Ok := by
  unfold Shadow.Ok at h ⊢
  simp [h]
  omega

section Operations
variable {s : State} (h : Inv s)
include h

theorem inv_popNack : Inv (popNack cfg s) := by
  obtain ⟨-, e⟩ | ⟨v, rest, -, e⟩ := popNack_cases cfg s <;> rw [e]
  · exact inv_respond h carried_popSentinel
  · exact inv_respond (s := { s with nack := rest }) h (carried_zextRes v)

theorem inv_readPrologueElement (dc : Flag) (cpt : BitVec 3) (ack : SN) (e1 : Flag) :
    Inv (readPrologueElement cfg dc cpt ack e1 s) := by
  obtain ⟨f, hf, e⟩ | ⟨-, e⟩ := readPrologueElement_cases cfg dc cpt ack e1 s <;> rw [e]
  · refine inv_raise (inv_withoutShadow h) ?_
    rintro rfl
    rw [prologueCheck_cfg] at hf
    split at hf <;> cases hf
  · refine inv_noResponse (inv_withShadow h fun sh hsh => ?_)
    cases hsh
    exact Shadow.ok_start ack e1

theorem inv_readEntryElement (sn : SN) (e1 : Flag) : Inv (readEntryElement cfg sn e1 s) := by
  obtain ⟨-, e⟩ | ⟨sh, -, -, -, e⟩ | ⟨sh, hs, -, -, e⟩ := readEntryElement_cases cfg sn e1 s <;> rw [e]
  · exact inv_noResponse h
  · exact inv_raise (inv_withoutShadow h) (by decide)
  · refine inv_noResponse (inv_withShadow h fun sh' hsh' => ?_)
    cases hsh'
    exact (h.shadow_ok hs).push sn e1

theorem inv_readPaddingElement : Inv (readPaddingElement cfg s) := by
  obtain ⟨-, e⟩ | ⟨sh, -, -, e⟩ | ⟨sh, -, -, e⟩ := readPaddingElement_cases cfg s <;> rw [e]
  · exact inv_noResponse h
  · exact inv_raise (inv_withoutShadow h) (by decide)
  · exact inv_commit (inv_withoutShadow h) sh

theorem inv_of_serialize {opa : Raw} {t : State} (ht : serialize cfg opa s = .next t) : Inv t := by
  rw [serialize_eq] at ht
  split at ht <;> cases ht
  · exact inv_raise h (by decide)
  · exact inv_respondNat (inv_withObuf h (Memory.writeAll_wf (h.wf_obuf) 0 _)) _

theorem inv_of_deserialize {opa : Raw} {t : State} (ht : deserialize cfg opa s = .next t) : Inv t := by
  obtain ⟨r, hr⟩ := readReport_ok cfg s.ibuf (byteCount opa)
  rw [deserialize, hr] at ht
  cases r <;> cases ht
  case error f => exact inv_raise h (readReport_error_ne_dc rfl hr)
  case ok sh => exact inv_commit h sh

/-- Of what the invariant speaks of, an abandoned operation writes OBUF at most. -/
theorem inv_abandonInstr (i : Instr) : Inv (abandonInstr i s) := by
  obtain e | ⟨_, -, -, e⟩ | ⟨-, e⟩ := abandonInstr_cases i s <;> rw [e]
  · exact h
  · exact inv_withObuf h (Memory.writeSome_wf (h.wf_obuf) _ 0 _)
  · exact h

theorem inv_abandonWord (w : PortWord) : Inv (abandonWord cfg w s) := by
  obtain ⟨i, -, e⟩ | ⟨_, -, e⟩ := abandonWord_cases w s <;> rw [e]
  · exact inv_resetBlock (inv_abandonInstr h i)
  · exact inv_resetBlock h

/-- Every instruction keeps the invariant. -/
theorem inv_of_exec {i : Instr} {t : State} (ht : exec i s = .next t) : Inv t := by
  cases i with
  | srSerialize opa => exact inv_of_serialize h ht
  | srDeserialize opa => exact inv_of_deserialize h ht
  | snConstruct | snValue | snInc | srGetack =>
    cases ht
    exact inv_respond h (carried_zextRes _)
  | snEquals =>
    cases ht
    exact inv_respond h (carried_boolRes _)
  | snCmp =>
    cases ht
    exact inv_respond h (carried_verdictCode _)
  | srClear | srSetack | srPrint =>
    cases ht
    exact inv_respond h carried_zero
  | srPushnack opa =>
    cases (exec_srPushnack opa s).symm.trans ht
    exact inv_respond h carried_zero
  | srPopnack =>
    cases ht
    exact inv_popNack h
  | srGetsize =>
    cases ht
    exact inv_respondNat h _
  | reservedE | reservedF =>
    cases ht
    exact inv_raise h (by decide)
  | statusPrologue dc cpt ack e1 =>
    cases ht
    exact inv_readPrologueElement h dc cpt ack e1
  | statusNackEntry sn e1 e2 =>
    cases ht
    exact inv_readEntryElement h sn e1
  | statusPadding =>
    cases ht
    exact inv_readPaddingElement h

theorem inv_of_takeWord {w : PortWord} {t : State} (ht : takeWord w s = .next t) : Inv t := by
  obtain ⟨i, -, e⟩ | ⟨dc, cpt, -, e⟩ := takeWord_cases w s <;> rw [e] at ht
  · exact inv_of_exec h ht
  · cases ht
    rw [rejectFailure_cfg]
    exact inv_raise (inv_withoutShadow h) (by decide)

end Operations

/-- Settles O11: by the next input; taking it from the queue keeps the invariant, and so does what it asks for. -/
theorem everyStepKeepsTheInvariant : Obligations.EveryStepKeepsTheInvariant := by
  intro s t h ht
  obtain ⟨-, e⟩ | ⟨rest, -, e⟩ | ⟨w, rest, -, e⟩ | ⟨bytes, rest, -, e⟩ | ⟨bytes, rest, -, e⟩ | ⟨w, rest, -, e⟩ :=
    step_cases s
  · cases e.symm.trans ht
    exact inv_noResponse h
  · cases e.symm.trans ht
    exact inv_resetBlock (s := { s with inputs := rest }) h
  · cases e.symm.trans ht
    exact inv_abandonWord (s := { s with inputs := rest }) h w
  · cases e.symm.trans ht
    exact inv_noResponse (inv_withIbuf (s := { s with inputs := rest }) h (Memory.ofBytes_wf bytes))
  · cases e.symm.trans ht
    exact inv_noResponse (inv_withObuf (s := { s with inputs := rest }) h (Memory.ofBytes_wf bytes))
  · exact inv_of_takeWord (s := { s with inputs := rest }) h (e.symm.trans ht)

/-- Settles O12: the windows list nothing, and there is neither a shadow nor a response. -/
theorem resetMeetsTheInvariant : Obligations.ResetMeetsTheInvariant :=
  ⟨Memory.wf_nil, Memory.wf_nil, nofun, nofun⟩

/-- Settles O13: the state after reset, field by field. -/
theorem resetStateIsTheSpecs : Obligations.ResetStateIsTheSpecs := ⟨rfl, rfl, rfl, rfl, rfl, rfl⟩

end Sys2Proof.Machine
